-- ==== Sys2Proof/Word.lean ====
section
/-!
DEFINITION. The word types of the Bus Device Enumerator (spec/00_scope.md R5, R6, R7).

A 1-Wire ROM code is held as ONE 64-bit word: its address value (R7), byte 0 least significant.
So `ROM[i]` is bits `8*i+7 .. 8*i` and search position `k` is bit `k-1` (R6, R54).
-/

namespace Sys2Proof

/-- A byte: the CRC register, a command's ARG, a register offset, the data of a register read. -/
abbrev Byte := BitVec 8

/-- A command word, format CMD16 (30_encoding.md R70). -/
abbrev Word := BitVec 16

/-- An 8-byte ROM code as its address value (00_scope.md R7); also a 64-bit written-mask, where bit
`k-1` speaks of search position `k` (10_state.md R22). -/
abbrev Rom := BitVec 64

end Sys2Proof
end

