-- ==== Sys2Proof/Syntax.lean ====
section
/-!
DEFINITION. The syntax of commands: `Instr`, one constructor per row of spec/opcode_table.json
(30_encoding.md R71), and the assembler's terms (R75, R76). An immediate is a `Nat`, so that a term
no encoding exists for can still be stated and is refused by name (R77; WellFormed.lean).
-/

namespace Sys2Proof

/-- A command of the block: one constructor per row of R71. -/
inductive Instr where
  | resetSearch
  | first
  | next
  | search (cmd : Nat)
  | targetSetup (fc : Nat)
  | familySkipSetup
  | verify
  | crcClear
  | crcUpdate (b : Nat)
deriving DecidableEq, Repr

/-- The nine mnemonics of R71. -/
inductive Mnemonic where
  | resetSearch | first | next | search | targetSetup | familySkipSetup | verify | crcClear | crcUpdate
deriving DecidableEq, Repr

/-- The mnemonic of a command. -/
def Instr.mnemonic : Instr → Mnemonic
  | .resetSearch => .resetSearch
  | .first => .first
  | .next => .next
  | .search _ => .search
  | .targetSetup _ => .targetSetup
  | .familySkipSetup => .familySkipSetup
  | .verify => .verify
  | .crcClear => .crcClear
  | .crcUpdate _ => .crcUpdate

/-- The ARG a command carries, for the three that take one (R72). -/
def Instr.operand : Instr → Option Nat
  | .search n | .targetSetup n | .crcUpdate n => some n
  | .resetSearch | .first | .next | .familySkipSetup | .verify | .crcClear => none

/-- A command as an assembler reads it: a mnemonic and at most one operand (R75). It may be ill
formed (R77). -/
structure AsmTerm where
  mnemonic : Mnemonic
  operand  : Option Nat
deriving DecidableEq, Repr

/-- The names a host register read may use (R75; 20_memory.md R51). `rom i` is ROM`i`. -/
inductive RegName where
  | rom (i : Fin 8)
  | ld | lfd | flags | result | crc
deriving DecidableEq, Repr

/-- The register map's offset of each name (20_memory.md R51). -/
def RegName.offset : RegName → Byte
  | .rom i => BitVec.ofNat 8 i.val
  | .ld => 0x08#8
  | .lfd => 0x09#8
  | .flags => 0x0A#8
  | .result => 0x0B#8
  | .crc => 0x0C#8

/-- One line of a host's program (R75): a command, a register read `RD <name>`, or nothing (a blank
line or a comment). -/
inductive AsmLine where
  | command (t : AsmTerm)
  | rd (r : RegName)
  | blank
deriving DecidableEq, Repr

end Sys2Proof
end

