-- ==== Sys2Proof/WellFormed.lean ====
section
/-!
DEFINITION. Well-formedness of commands and assembler terms (spec/30_encoding.md R77): each reason
a term has no encoding has its own name.
-/

namespace Sys2Proof

/-- Why a term has no encoding (R77). -/
inductive IllFormed where
  /-- The immediate of SEARCH, TARGET_SETUP or CRC_UPDATE is outside 0..255. -/
  | immediateOutOfRange
  /-- An operand is given to an argument-free mnemonic. -/
  | operandNotAllowed
  /-- SEARCH, TARGET_SETUP or CRC_UPDATE without its immediate (R75: the mnemonic, then its ARG). -/
  | operandMissing
deriving DecidableEq, Repr

/-- R77: the immediate must be in 0..255. -/
def immOk (n : Nat) : Bool := n < 256

/-- The well-formedness check of a command: the reason it has no encoding, if there is one. -/
def Instr.illFormed (i : Instr) : Option IllFormed :=
  match i.operand with
  | some n => if immOk n then none else some .immediateOutOfRange
  | none => none

/-- A command that has an encoding. -/
abbrev Instr.WF (i : Instr) : Prop := i.illFormed = none

/-- The command of an argument-free mnemonic, or the constructor that takes the immediate. -/
def Mnemonic.shape : Mnemonic → Instr ⊕ (Nat → Instr)
  | .resetSearch => .inl .resetSearch
  | .first => .inl .first
  | .next => .inl .next
  | .search => .inr .search
  | .targetSetup => .inr .targetSetup
  | .familySkipSetup => .inl .familySkipSetup
  | .verify => .inl .verify
  | .crcClear => .inl .crcClear
  | .crcUpdate => .inr .crcUpdate

/-- The well-formedness check of an assembler term: the command it stands for, or why it is refused. -/
def AsmTerm.check (t : AsmTerm) : Except IllFormed Instr :=
  match t.mnemonic.shape, t.operand with
  | .inl i, none => .ok i
  | .inl _, some _ => .error .operandNotAllowed
  | .inr _, none => .error .operandMissing
  | .inr f, some n => if immOk n then .ok (f n) else .error .immediateOutOfRange

/-- The assembler term of a command. -/
def Instr.term (i : Instr) : AsmTerm := ⟨i.mnemonic, i.operand⟩

end Sys2Proof
end

