-- ==== Sys2Proof/Decode.lean ====
section
/-!
DEFINITION. Decoding and encoding of command words (spec/30_encoding.md R70 to R74). `decode` is
total on the 65 536 words: it gives a command, or the reason the word is illegal.
-/

namespace Sys2Proof

/-- Why a command word is illegal (R73). The block's verdict is one fault, IllegalCommand; the
three reasons are the model's names for R73's three cases. -/
inductive Illegal where
  /-- RSV (bits 7:4) is not 0. -/
  | reserved
  /-- A nonzero ARG on an argument-free opcode. -/
  | argument
  /-- OP is 0x9 to 0xF. -/
  | opcode
deriving DecidableEq, Repr

/-- OP, bits 3:0 of a command word (R70). -/
def opField (w : Word) : BitVec 4 := w.extractLsb' 0 4

/-- RSV, bits 7:4 of a command word (R70). -/
def rsvField (w : Word) : BitVec 4 := w.extractLsb' 4 4

/-- ARG, bits 15:8 of a command word (R70). -/
def argField (w : Word) : Byte := w.extractLsb' 8 8

/-- An argument-free opcode: ARG must be 0 (R73). -/
def argFree (arg : Byte) (i : Instr) : Except Illegal Instr :=
  if arg = 0#8 then .ok i else .error .argument

/-- `Decode` of R73. -/
def decode (w : Word) : Except Illegal Instr :=
  if rsvField w ≠ 0#4 then .error .reserved
  else
    match (opField w).toNat with
    | 0x0 => argFree (argField w) .resetSearch
    | 0x1 => argFree (argField w) .first
    | 0x2 => argFree (argField w) .next
    | 0x3 => .ok (.search (argField w).toNat)
    | 0x4 => .ok (.targetSetup (argField w).toNat)
    | 0x5 => argFree (argField w) .familySkipSetup
    | 0x6 => argFree (argField w) .verify
    | 0x7 => argFree (argField w) .crcClear
    | 0x8 => .ok (.crcUpdate (argField w).toNat)
    | _ => .error .opcode

/-- The word with the given OP and ARG, RSV = 0 (R70: `AAAAAAAA0000OOOO`). -/
def cmd16 (op : BitVec 4) (arg : Byte) : Word := (arg ++ 0#4) ++ op

/-- The opcode of each command (R71). -/
def Instr.op : Instr → BitVec 4
  | .resetSearch => 0x0#4
  | .first => 0x1#4
  | .next => 0x2#4
  | .search _ => 0x3#4
  | .targetSetup _ => 0x4#4
  | .familySkipSetup => 0x5#4
  | .verify => 0x6#4
  | .crcClear => 0x7#4
  | .crcUpdate _ => 0x8#4

/-- The word of a well-formed command; none for an ill-formed one ("no encoding exists", R77). -/
def encode (i : Instr) : Option Word :=
  match i.illFormed with
  | some _ => none
  | none => some (cmd16 i.op (BitVec.ofNat 8 (i.operand.getD 0)))

/-- A row of R71's table: a word `w` selects it when `w & mask == match`. -/
structure OpcodeRow where
  mnemonic : Mnemonic
  bits     : Word
  mask     : Word
deriving DecidableEq, Repr

/-- The table of R71 (columns match and mask). -/
def opcodeTable : List OpcodeRow :=
  [ ⟨.resetSearch, 0x0000#16, 0xFFFF#16⟩,
    ⟨.first, 0x0001#16, 0xFFFF#16⟩,
    ⟨.next, 0x0002#16, 0xFFFF#16⟩,
    ⟨.search, 0x0003#16, 0x00FF#16⟩,
    ⟨.targetSetup, 0x0004#16, 0x00FF#16⟩,
    ⟨.familySkipSetup, 0x0005#16, 0xFFFF#16⟩,
    ⟨.verify, 0x0006#16, 0xFFFF#16⟩,
    ⟨.crcClear, 0x0007#16, 0xFFFF#16⟩,
    ⟨.crcUpdate, 0x0008#16, 0x00FF#16⟩ ]

/-- `w & mask == match` (R71). -/
def OpcodeRow.selects (r : OpcodeRow) (w : Word) : Bool := (w &&& r.mask) == r.bits

/-- The command of the table word `w` of `nbits` bits (host interface of the row): the command port
takes one whole 16-bit word, bit 0 least significant (R70), so the bits above `nbits` are 0. -/
def decodeTableWord (nbits w : Nat) : Option Instr :=
  match decode (BitVec.ofNat 16 (w % 2 ^ nbits)) with
  | .ok i => some i
  | .error _ => none

end Sys2Proof
end

