-- ==== Sys2Proof/Config.lean ====
section
/-!
DEFINITION. The open parameters of the block (spec/00_scope.md R5, 10_state.md R36) and the free
bus answers (40_bus_primitives.md R96). Each is an opaque constant without a body: no proof can
see a value, so a claim holds for every value. No command writes one.
-/

namespace Sys2Proof

/-- SEARCH_COMMAND, the command byte of FIRST, NEXT and VERIFY (R5, decision D14: OPEN). One constant for
all instances, as the next two (log entry 4, DESIGN CHOICE: R36 only makes them constant for the life of an
instance). -/
opaque Config.searchCommand : Byte

/-- VERIFY_GATED: whether VERIFY's RES is gated on the address comparison (R5, decision D13: OPEN). -/
opaque Config.verifyGated : Bool

/-- The open part of PARTICIPATES(cmd, d) (R5, R97, decision D16): whether device `d` joins a search
with a command byte other than SEARCH_COMMAND. Used by the reference bus only. -/
opaque Config.participatesOther : Byte → Rom → Bool

/-- N_INSTANCES less one (R5, decision D21: OPEN, at least 1). -/
opaque Config.extraInstances : Nat

/-- N_INSTANCES, "a count of at least 1" (R5). -/
def Config.nInstances : Nat := Config.extraInstances + 1

/-- A question to the unconstrained oracle (R96): its place in one of the streams of free answers. Each
instance has a stream of its own (log entry 3). -/
structure Question where
  stream : Nat
  number : Nat
deriving DecidableEq, Repr

/-- The next question of the same stream. -/
def Question.next (q : Question) : Question := { q with number := q.number + 1 }

/-- The unconstrained oracle (R96): the answer to a question that no script in State answers. A free
value: log entry 3. -/
opaque Config.busAnswer : Question → Bool

/-- PARTICIPATES(cmd, d): true for SEARCH_COMMAND and every device, open for any other byte (R97). -/
def Config.participates (cmd : Byte) (d : Rom) : Bool :=
  cmd == Config.searchCommand || Config.participatesOther cmd d

end Sys2Proof
end

