-- ==== Sys2Proof/Machine/State.lean ====
section
/-!
DEFINITION. The state of one enumerator (spec/10_state.md R20 to R37): one field per row of R20,
then the observations the spec asks a model to keep (R102 bus history, R171 outcome), then the
block's surroundings as plain data (the bus of 40_bus_primitives.md R96 and R97, what the host does,
what the host has been answered). And the state after hardware reset (R35).
-/

namespace Sys2Proof.Machine

/-- The sequencer phase PH (10_state.md R32, 41_search.md R126). -/
inductive Phase where
  | idle
  | vsave
  | rst
  /-- CMD0 to CMD7: bit `i` of the command byte goes out. -/
  | cmd (i : Nat)
  /-- RID(k): the true bit of position `k` is read. -/
  | rid (k : Nat)
  /-- RCMP(k): its complement is read. -/
  | rcmp (k : Nat)
  /-- WDIR(k): the direction is written back. -/
  | wdir (k : Nat)
  | fin
  | vrestore
deriving DecidableEq, Repr

/-- FAULT (10_state.md R33): none, or one of the three codes of 60_exceptions.md R172. -/
inductive FaultCode where
  | none
  | illegalCommand
  | unwrittenRead
  | unmappedRegister
deriving DecidableEq, Repr

/-- FAULT_INFO (10_state.md R33): the information of each fault (60_exceptions.md R172). -/
inductive FaultInfo where
  /-- IllegalCommand: the command word. -/
  | word (w : Word)
  /-- UnwrittenRead at the replay of a pass: the search position. -/
  | replay (position : Nat)
  /-- UnwrittenRead at the VERIFY compare: the saved written-mask. -/
  | verify (mask : Rom)
  /-- UnwrittenRead at a host read of ROM0 to ROM7: the byte. -/
  | host (byte : Byte)
  /-- UnmappedRegister: the offset. -/
  | offset (off : Byte)
deriving DecidableEq, Repr

/-- RESULT (10_state.md R28): bit 0 RES, bit 1 VFOUND, bit 2 VSAME; bits 7:3 read as 0. -/
structure ResultReg where
  res    : Bool
  vfound : Bool
  vsame  : Bool
deriving DecidableEq, Repr

/-- How a pass ends (60_exceptions.md R171). -/
inductive PassOutcome where
  | found | exhausted | noPresence | aborted | zeroAddress
deriving DecidableEq, Repr

/-- A bus event with the answer the bus gave (40_bus_primitives.md R90, R102). -/
inductive BusEvent where
  /-- `RST`, answered with the presence bit. -/
  | rst (presence : Bool)
  /-- `W(v)`. -/
  | w (v : Bool)
  /-- `R`, answered with `v`. -/
  | r (v : Bool)
deriving DecidableEq, Repr

/-- The read phase RP of the reference bus (R97): which of the two reads of a position is next. -/
inductive ReadPhase where
  | id | cmp
deriving DecidableEq, Repr

/-- The reference bus (40_bus_primitives.md R97): its configuration `P` and `STUCK`, then its state
`RS`, `NW`, `CMD`, `KB`, `RP`. -/
structure RefBus where
  /-- `P`: the ROM codes of the devices present, without repeats. -/
  devices : List Rom
  /-- `STUCK`: the line is held low. -/
  stuck   : Bool
  /-- `RS`: the devices still in the race. -/
  race    : List Rom
  /-- `NW`: bits written since the last `RST`. -/
  nw      : Nat
  /-- `CMD`: the command byte received. -/
  cmd     : Byte
  /-- `KB`: the search position. -/
  kb      : Nat
  rp      : ReadPhase
deriving DecidableEq, Repr

/-- What is at the downstream port (40_bus_primitives.md). -/
inductive Bus where
  /-- The unconstrained oracle of R96, the normative bus: `script` holds its next answers in order;
  after them the free answers `Config.busAnswer asked`, `Config.busAnswer asked.next`, … (log entry 3) -/
  | oracle (script : List Bool) (asked : Question)
  /-- The reference bus of R97. -/
  | reference (b : RefBus)
deriving DecidableEq, Repr

/-- What the outside does to the block, one item a step (log entry 1). -/
inductive HostInput where
  /-- The host writes a command word to the command port (20_memory.md R50). -/
  | command (w : Word)
  /-- The host reads a byte offset of the register read port (20_memory.md R50, R51). -/
  | read (off : Byte)
  /-- Power-on, power loss or an external reset (70_reset_and_hazards.md R190). -/
  | hardwareReset
  /-- Between commands the bus changes: devices join or leave (R97), or the host has used the bus
  for other traffic (R103). -/
  | busChange (b : Bus)
deriving DecidableEq, Repr

/-- What the host has been answered: a command that completed unblocks it (60_exceptions.md R177), a
register read gives it a byte (20_memory.md R52). -/
inductive HostAnswer where
  | completed (w : Word)
  | data (off : Byte) (v : Byte)
deriving DecidableEq, Repr

/-- The state of one enumerator instance and its surroundings. -/
structure State where
  /-- ROM[0..7] as its address value: `ROM[i]` is bits `8*i+7 .. 8*i` (R21). -/
  rom       : Rom
  /-- ROM_W, the written mask (R22). -/
  romW      : Rom
  /-- LD, 0..64 (R23). -/
  ld        : BitVec 7
  /-- LFD, 0..8 (R24). -/
  lfd       : BitVec 4
  /-- LDF (R25). -/
  ldf       : Bool
  /-- CRC (R27). -/
  crc       : Byte
  /-- RESULT (R28). -/
  result    : ResultReg
  /-- LZ, 0..64 (R29). -/
  lz        : BitVec 7
  /-- K, the position of the current pass (R30). -/
  k         : BitVec 7
  /-- IDB (R30). -/
  idb       : Bool
  /-- CMPB (R30). -/
  cmpb      : Bool
  /-- DIR (R30). -/
  dir       : Bool
  /-- OK (R30). -/
  ok        : Bool
  /-- S_ROM[0..7] (R31). -/
  sRom      : Rom
  /-- S_ROM_W (R31). -/
  sRomW     : Rom
  /-- S_LD (R31). -/
  sLd       : BitVec 7
  /-- S_LFD (R31). -/
  sLfd      : BitVec 4
  /-- S_LDF (R31). -/
  sLdf      : Bool
  /-- PH (R32). -/
  ph        : Phase
  /-- FAULT (R33). -/
  fault     : FaultCode
  /-- FAULT_INFO (R33). -/
  faultInfo : FaultInfo
  /-- The instance's bus history, oldest event first (40_bus_primitives.md R102). -/
  history   : List BusEvent
  /-- The outcome of the last pass, an observation of the model (60_exceptions.md R171). -/
  outcome   : Option PassOutcome
  /-- What is at the downstream port. -/
  bus       : Bus
  /-- What the outside will do, next item first. -/
  inputs    : List HostInput
  /-- What the host has been answered, oldest first. -/
  answers   : List HostAnswer
deriving DecidableEq, Repr

/-- Why a step answers no next state. The block's own three faults are not here: they are
`FaultCode`s that a NEXT state holds (60_exceptions.md R173). -/
inductive Fault where
  /-- The block is halted by a fault and nothing is coming that could reset it: "stuck", the block
  takes no further step (60_exceptions.md R173, R174; 93_implementation_defined.md U13).
  Raised by `step` only, never by a command's meaning.
  Safe: the hardware takes no step there either. -/
  | halted (code : FaultCode)
deriving DecidableEq, Repr

/-- Why a meaning has no answer. -/
inductive Refusal where
  /-- An arm of `exec` that gives its instruction no meaning (none does).
  Safe: nothing can be proved of it. -/
  | notModelled (mnemonic : String)
  /-- The immediate of SEARCH, TARGET_SETUP or CRC_UPDATE is outside 0..255: no command word encodes
  the term, so the block has no behaviour on it (30_encoding.md R77).
  Raised by the three meanings that take an immediate; never reached from a decoded word.
  Safe: nothing can be proved of it. -/
  | immediateOutOfRange (n : Nat)
deriving DecidableEq, Repr

/-- How a procedure of the spec's pseudocode ends (00_scope.md R9): `return`, with the state it leaves,
or `raise Fault`, with the state as it stands at the raise (60_exceptions.md R173). A host macro
(Assembler.lean) ends the same way, `raised` being the halt in which its next request does not complete. -/
inductive Flow (α : Type) where
  | value (a : α) (s : State)
  | raised (s : State)
deriving DecidableEq, Repr

/-- What steps b to d of DISC_STEP settle at a position (41_search.md R118). -/
inductive Resolution where
  /-- Step b: nobody responded. -/
  | abort
  /-- Steps c and d: a direction, now in DIR. -/
  | go
deriving DecidableEq, Repr

/-- The state right after hardware reset (10_state.md R35, 70_reset_and_hazards.md R190, R191).
The spec gives ROM_W, LD, LFD, LDF, CRC, RESULT, PH, FAULT and the empty bus history.
It leaves ROM (unwritten), LZ, K, IDB, CMPB, DIR, OK, the shadows and FAULT_INFO unspecified; the
zeros here are log entry 2 (DESIGN CHOICE), and no rule reads one before it is written.
The surroundings are log entry 1: nothing has been sent, and the bus is the oracle. -/
def State.reset : State where
  rom := 0#64
  romW := 0#64
  ld := 0#7
  lfd := 0#4
  ldf := false
  crc := 0x00#8
  result := ⟨false, false, false⟩
  lz := 0#7
  k := 0#7
  idb := false
  cmpb := false
  dir := false
  ok := false
  sRom := 0#64
  sRomW := 0#64
  sLd := 0#7
  sLfd := 0#4
  sLdf := false
  ph := .idle
  fault := .none
  faultInfo := .word 0x0000#16
  history := []
  outcome := none
  bus := .oracle [] ⟨0, 0⟩
  inputs := []
  answers := []

end Sys2Proof.Machine
end

