-- ==== Sys2Proof/Machine/Bits.lean ====
section
/-!
DEFINITION. Bit positions of a ROM code (spec/00_scope.md R6 to R8, 20_memory.md R54): search
positions, bytes, the traversal key.
-/

namespace Sys2Proof.Machine

/-- `byteIndex(k) = (k-1) div 8` (R6). -/
def byteIndex (k : Nat) : Nat := (k - 1) / 8

/-- `bitNo(k) = (k-1) mod 8` (R6). -/
def bitNo (k : Nat) : Nat := (k - 1) % 8

/-- `ROM[i]`: byte 0, the family code, is the least significant (R7, R54). -/
def romByte (a : Rom) (i : Nat) : Byte := a.extractLsb' (8 * i) 8

/-- `romBit(k)` of a ROM code, or bit `k-1` of a written-mask: bit `bitNo(k)` of byte `byteIndex(k)`
(R6), which is bit `k-1` of the address value (R7). -/
def romBit (a : Rom) (k : Nat) : Bool := a.getLsbD (k - 1)

/-- The 64-bit word whose only 1 is search position `k`. -/
def positionMask (k : Nat) : Rom := 1#64 <<< (k - 1)

/-- `romBit(k) <- d` on a 64-bit word (R9). -/
def setRomBit (a : Rom) (k : Nat) (d : Bool) : Rom :=
  if d then a ||| positionMask k else a &&& ~~~positionMask k

/-- Every bit written: "all 64 bits 1" (42_family.md R140, 43_verify.md R150). -/
def allWritten : Rom := BitVec.allOnes 64

/-- The eight bytes of a ROM code, ROM[0] first. -/
def romBytes (a : Rom) : List Byte := (List.range 8).map (romByte a)

/-- The ROM code of eight bytes, ROM[0] first: `A = sum a[i] * 2^(8*i)` (R7). -/
def romOfBytes : List Byte → Rom
  | [] => 0#64
  | b :: bs => (romOfBytes bs <<< 8) ||| b.setWidth 64

/-- The traversal key's partial sum over positions 1 to `n`: `sum romBit(k) * 2^(64-k)` (R8). -/
def traversalKeyUpTo (a : Rom) : Nat → Nat
  | 0 => 0
  | n + 1 => traversalKeyUpTo a n + (romBit a (n + 1)).toNat * 2 ^ (64 - (n + 1))

/-- The traversal key `TK` (R8): position 1 is the most significant bit. -/
def traversalKey (a : Rom) : Nat := traversalKeyUpTo a 64

end Sys2Proof.Machine
end

