-- ==== Sys2Proof/Machine/Bus.lean ====
section
/-!
DEFINITION. The downstream port (spec/40_bus_primitives.md): what the bus answers (the oracle of R96,
the reference bus of R97 to R100) and the primitives the block drives it with (R91 to R95), each
recorded in the bus history (R102).
-/

namespace Sys2Proof.Machine

/-! ### The reference bus -/

/-- `P` is a set: no device twice (R97). -/
abbrev refBusWF (b : RefBus) : Prop := b.devices.Nodup

/-- Reference `RST` (R98): the presence answer and the bus after it. -/
def refReset (b : RefBus) : Bool × RefBus :=
  (!b.devices.isEmpty && !b.stuck,
    { b with race := b.devices, nw := 0, cmd := 0x00#8, kb := 1, rp := .id })

/-- Reference `R` (R99): the wired-AND of the race set at `KB`, 1 over the empty set; 0 if stuck.
The spec defines it after a command byte, twice a position (R100); any other `R` (before the eighth write,
a third at one position) is answered by the same formula, log entry 11 (DESIGN CHOICE). -/
def refRead (b : RefBus) : Bool × RefBus :=
  if b.stuck then (false, b)
  else
    match b.rp with
    | .id => (b.race.all fun d => romBit d b.kb, { b with rp := .cmp })
    | .cmp => (b.race.all fun d => !romBit d b.kb, { b with rp := .id })

/-- Reference `W(v)` (R100): a bit of the command byte while `NW < 8`, else the direction at `KB`.
Past the patterns of R100 (a direction without two reads, a 65th position) it goes on by the same rule, log
entry 11 (DESIGN CHOICE). -/
def refWrite (v : Bool) (b : RefBus) : RefBus :=
  if b.nw < 8 then
    let cmd := b.cmd ||| ((BitVec.ofBool v).setWidth 8 <<< b.nw)
    { b with
      cmd := cmd
      nw := b.nw + 1
      race := if b.nw + 1 = 8 then b.race.filter (Config.participates cmd) else b.race }
  else
    { b with
      race := b.race.filter fun d => romBit d b.kb == v
      kb := b.kb + 1
      rp := .id
      nw := b.nw + 1 }

/-! ### Any bus -/

/-- The oracle's next answer (R96): the head of the script, else a free value. -/
def oracleAnswer (script : List Bool) (asked : Question) : Bool × Bus :=
  match script with
  | a :: rest => (a, .oracle rest asked)
  | [] => (Config.busAnswer asked, .oracle [] asked.next)

/-- What the bus does on `RST` and answers. -/
def onReset : Bus → Bool × Bus
  | .oracle script asked => oracleAnswer script asked
  | .reference b => ((refReset b).1, .reference (refReset b).2)

/-- What the bus does on `R` and answers. -/
def onRead : Bus → Bool × Bus
  | .oracle script asked => oracleAnswer script asked
  | .reference b => ((refRead b).1, .reference (refRead b).2)

/-- What the bus does on `W(v)`. -/
def onWrite (v : Bool) : Bus → Bus
  | .oracle script asked => .oracle script asked
  | .reference b => .reference (refWrite v b)

/-! ### The block's primitives -/

/-- BusReset (R91): the presence answer and the state with the event recorded. -/
def busReset (s : State) : Bool × State :=
  let p := (onReset s.bus).1
  (p, { s with bus := (onReset s.bus).2, history := s.history ++ [.rst p] })

/-- BusWriteBit (R92). -/
def busWriteBit (v : Bool) (s : State) : State :=
  { s with bus := onWrite v s.bus, history := s.history ++ [.w v] }

/-- BusReadBit (R93). -/
def busReadBit (s : State) : Bool × State :=
  let v := (onRead s.bus).1
  (v, { s with bus := (onRead s.bus).2, history := s.history ++ [.r v] })

/-- `n` writes of a byte's bits, from bit `i` up. -/
def writeBitsFrom (b : Byte) : Nat → Nat → State → State
  | 0, _, s => s
  | n + 1, i, s => writeBitsFrom b n (i + 1) (busWriteBit (b.getLsbD i) s)

/-- BusWriteByte (R94): exactly 8 writes, bit 0 first. -/
def busWriteByte (b : Byte) (s : State) : State := writeBitsFrom b 8 0 s

/-- `n` reads into bits `i`, `i+1`, … of an accumulated byte. -/
def readBitsFrom : Nat → Nat → Byte → State → Byte × State
  | 0, _, b, s => (b, s)
  | n + 1, i, b, s =>
    let v := (busReadBit s).1
    readBitsFrom n (i + 1) (b ||| ((BitVec.ofBool v).setWidth 8 <<< i)) (busReadBit s).2

/-- BusReadByte (R95): the first bit read is bit 0. No command uses it, and its eight reads are no pattern
of the reference bus (R100; log entry 11). -/
def busReadByte (s : State) : Byte × State := readBitsFrom 8 0 0x00#8 s

end Sys2Proof.Machine
end

