-- ==== Sys2Proof/Machine/Flags.lean ====
section
/-!
DEFINITION. The flag and result computations: LDF with LD and LFD (spec/10_state.md R25, R122) and
the RESULT register (R28, 43_verify.md R152).
-/

namespace Sys2Proof.Machine

/-- *found* (00_scope.md R10): the pass reports a device. -/
def isFound (o : PassOutcome) : Bool := o == .found

/-- RESULT as FIRST, NEXT and SEARCH write it: RES = found, VFOUND = VSAME = 0 (41_search.md R111). -/
def searchResult (found : Bool) : ResultReg := ⟨found, false, false⟩

/-- RESULT as VERIFY writes it (43_verify.md R152). -/
def verifyResult (found same : Bool) : ResultReg :=
  ⟨if Config.verifyGated then found && same else found, found, same⟩

/-- RESULT as the register map shows it: bits 7:3 read as 0 (20_memory.md R51). -/
def resultByte (r : ResultReg) : Byte :=
  ((BitVec.ofBool r.vsame).setWidth 8 <<< 2) ||| ((BitVec.ofBool r.vfound).setWidth 8 <<< 1)
    ||| (BitVec.ofBool r.res).setWidth 8

/-- FLAGS as the register map shows it: bit 0 LDF, bits 7:1 read as 0 (20_memory.md R51). -/
def flagsByte (ldf : Bool) : Byte := (BitVec.ofBool ldf).setWidth 8

/-- `LD <- 0; LFD <- 0; LDF <- 0`: RESET_SEARCH's effect, and what a failed pass does (R110, R122). -/
def clearSession (s : State) : State := { s with ld := 0#7, lfd := 0#4, ldf := false }

/-- Completion (41_search.md R121): `LD <- LZ; if LZ == 0: LDF <- 1`. -/
def completePass (s : State) : State :=
  { s with ld := s.lz, ldf := if s.lz = 0#7 then true else s.ldf }

end Sys2Proof.Machine
end

