-- ==== Sys2Proof/Machine/Operands.lean ====
section
/-!
DEFINITION. The one operand form of the block (spec/30_encoding.md R72, R77): an 8-bit immediate,
taken as it is, neither extended nor scaled.
-/

namespace Sys2Proof.Machine

/-- Runs a meaning on an 8-bit immediate. A number outside 0..255 has no encoding (R77) and is
refused by name. -/
def withImm8 (n : Nat) (meaning : Byte → Host.Outcome State Fault Refusal) :
    Host.Outcome State Fault Refusal :=
  if n < 256 then meaning (BitVec.ofNat 8 n) else .refused (.immediateOutOfRange n)

end Sys2Proof.Machine
end

