-- ==== Sys2Proof/Machine/Ops.lean ====
section
/-!
DEFINITION. The shared operations: raising a fault and leaving the halt (spec/60_exceptions.md R173,
R174), hardware reset (70_reset_and_hazards.md R190), the register read port (20_memory.md R52).
-/

namespace Sys2Proof.Machine

/-! ### Faults -/

/-- `raise Fault(code, info)` (60_exceptions.md R173): FAULT and FAULT_INFO are set, every earlier
write stands, and nothing else changes. That nothing after it executes is the caller's `Flow`. -/
def raiseFault (code : FaultCode) (info : FaultInfo) (s : State) : State :=
  { s with fault := code, faultInfo := info }

/-- The block is halted (R173). -/
def isHalted (s : State) : Bool := s.fault != .none

/-- The label of a fault code (R172); 0 is none (10_state.md R33). -/
def faultCodeNumber : FaultCode → Nat
  | .none => 0
  | .illegalCommand => 1
  | .unwrittenRead => 2
  | .unmappedRegister => 3

/-- Hardware reset (70_reset_and_hazards.md R190, R191), from any state, the halted one included (R174:
the only way out): every field of the block and the bus history go to their reset values. No bus
event is issued and the devices on the bus are not reset; what the outside will do and what it has
been answered stay. -/
def hardwareReset (s : State) : State :=
  { State.reset with bus := s.bus, inputs := s.inputs, answers := s.answers }

/-! ### The register read port -/

/-- `RegRead(off)` (20_memory.md R52): the byte, or the fault it raises. -/
def regRead (off : Byte) (s : State) : Except (FaultCode × FaultInfo) Byte :=
  if off.toNat ≤ 0x07 then
    if romByte s.romW off.toNat = 0xFF#8 then .ok (romByte s.rom off.toNat)
    else .error (.unwrittenRead, .host off)
  else if off = 0x08#8 then .ok (s.ld.setWidth 8)
  else if off = 0x09#8 then .ok (s.lfd.setWidth 8)
  else if off = 0x0A#8 then .ok (flagsByte s.ldf)
  else if off = 0x0B#8 then .ok (resultByte s.result)
  else if off = 0x0C#8 then .ok s.crc
  else .error (.unmappedRegister, .offset off)

/-- A host read: the byte is answered, or the fault is raised and the read does not complete (R52,
60_exceptions.md R173). No field of the block changes on a read that completes. -/
def hostRead (off : Byte) (s : State) : State :=
  match regRead off s with
  | .ok v => { s with answers := s.answers ++ [.data off v] }
  | .error (code, info) => raiseFault code info s

end Sys2Proof.Machine
end

