-- ==== Sys2Proof/Machine/Crc.lean ====
section
/-!
DEFINITION. The CRC-8 checker: CRC_STEP, CRC_UPDATE, CRC_CLEAR, crc8 and the ROM-code check
(spec/44_crc8.md R160 to R164).
-/

namespace Sys2Proof.Machine

/-- CRC_POLY (00_scope.md R5). -/
def crcPoly : Byte := 0x8C#8

/-- `n` iterations of CRC_STEP's loop (R160): mix the low bits, shift, conditional exclusive or. -/
def crcIterations : Nat → Byte → Byte → Byte
  | 0, c, _ => c
  | n + 1, c, b =>
    let mix := (c ^^^ b) &&& 1#8
    let shifted := c >>> 1
    crcIterations n (if mix = 1#8 then shifted ^^^ crcPoly else shifted) (b >>> 1)

/-- CRC_STEP(c, b) (R160): 8 iterations, data bit 0 first. -/
def crcStep (c b : Byte) : Byte := crcIterations 8 c b

/-- The table form's T(x) (R164). -/
def crcTable (x : Byte) : Byte := crcStep 0x00#8 x

/-- crc8 of a byte sequence (R163): a fold from the initial value 0. -/
def crc8 (m : List Byte) : Byte := m.foldl crcStep 0x00#8

/-- A ROM code is well formed when the CRC over bytes 0 to 6 equals byte 7 (R164, conflict C10). -/
def romCodeValid (a : Rom) : Bool := crc8 ((romBytes a).take 7) == romByte a 7

/-- CRC_CLEAR (R162). -/
def execCrcClear (s : State) : Host.Outcome State Fault Refusal := .next { s with crc := 0x00#8 }

/-- CRC_UPDATE `b` (R161). -/
def execCrcUpdate (b : Nat) (s : State) : Host.Outcome State Fault Refusal :=
  withImm8 b fun d => .next { s with crc := crcStep s.crc d }

end Sys2Proof.Machine
end

