-- ==== Sys2Proof/Machine/Family.lean ====
section
/-!
DEFINITION. The family commands TARGET_SETUP and FAMILY_SKIP_SETUP (spec/42_family.md R140, R142).
-/

namespace Sys2Proof.Machine

/-- The effect of TARGET_SETUP on the session (R140): ROM = `fc 00 .. 00`, all written; LD = 64. -/
def targetSetup (fc : Byte) (s : State) : State :=
  { s with rom := fc.setWidth 64, romW := allWritten, ld := 64#7, lfd := 0#4, ldf := false }

/-- TARGET_SETUP `fc` (R140). -/
def execTargetSetup (fc : Nat) (s : State) : Host.Outcome State Fault Refusal :=
  withImm8 fc fun b => .next (targetSetup b s)

/-- The effect of FAMILY_SKIP_SETUP (R142): `LD <- LFD; LFD <- 0; if LD == 0: LDF <- 1`. -/
def familySkip (s : State) : State :=
  let ld := s.lfd.setWidth 7
  { s with ld := ld, lfd := 0#4, ldf := if ld = 0#7 then true else s.ldf }

/-- FAMILY_SKIP_SETUP (R142). -/
def execFamilySkipSetup (s : State) : Host.Outcome State Fault Refusal := .next (familySkip s)

end Sys2Proof.Machine
end

