-- ==== Sys2Proof/Machine/Search.lean ====
section
/-!
DEFINITION. The search pass and the search commands RESET_SEARCH, FIRST, NEXT and SEARCH
(spec/41_search.md R110 to R126).
-/

namespace Sys2Proof.Machine

/-! ### One position (DISC_STEP, R118) -/

/-- Step a, first read: `IDB <- BusReadBit()`, in phase RID(K). -/
def readId (K : Nat) (s : State) : State :=
  let t := { s with k := BitVec.ofNat 7 K, ph := .rid K }
  { (busReadBit t).2 with idb := (busReadBit t).1 }

/-- Step a, second read: `CMPB <- BusReadBit()`, in phase RCMP(K). -/
def readCmp (K : Nat) (s : State) : State :=
  let t := { s with ph := .rcmp K }
  { (busReadBit t).2 with cmpb := (busReadBit t).1 }

/-- CHOOSE(K) (R119): the direction at a discrepancy, from the LD the pass started with. -/
def chooseDirection (K : Nat) (s : State) : Flow Bool :=
  if K < s.ld.toNat then
    if romBit s.romW K then .value (romBit s.rom K) s
    else .raised (raiseFault .unwrittenRead (.replay K) s)
  else .value (K == s.ld.toNat) s

/-- NOTE_ZERO(K) (R120): LZ, and for K ≤ 8 also LFD, at once. -/
def noteZero (K : Nat) (s : State) : State :=
  { s with lz := BitVec.ofNat 7 K, lfd := if K ≤ 8 then BitVec.ofNat 4 K else s.lfd }

/-- Steps b to d of DISC_STEP(K): from IDB and CMPB to OK or DIR. -/
def resolve (K : Nat) (s : State) : Flow Resolution :=
  if s.idb && s.cmpb then .value .abort { s with ok := false }
  else if s.idb != s.cmpb then .value .go { s with dir := s.idb }
  else
    match chooseDirection K s with
    | .raised t => .raised t
    | .value d t => .value .go (if d then { t with dir := d } else noteZero K { t with dir := d })

/-- Steps e and f: `romBit(K) <- DIR` with its ROM_W bit (10_state.md R22), then `BusWriteBit(DIR)`, in
phase WDIR(K). -/
def writeDirection (K : Nat) (s : State) : State :=
  busWriteBit s.dir
    { s with ph := .wdir K, rom := setRomBit s.rom K s.dir, romW := setRomBit s.romW K true }

/-- DISC_STEP(K) (R118). -/
def discStep (K : Nat) (s : State) : Flow Resolution :=
  match resolve K (readCmp K (readId K s)) with
  | .raised t => .raised t
  | .value .abort t => .value .abort t
  | .value .go t => .value .go (writeDirection K t)

/-- The last `n` positions of a pass, 65-n to 64, in ascending order, left on an abort (R114 step 4). -/
def positions : Nat → State → Flow Resolution
  | 0, s => .value .go s
  | n + 1, s =>
    match discStep (64 - n) s with
    | .raised t => .raised t
    | .value .abort t => .value .abort t
    | .value .go t => positions n t

/-! ### The pass (SEARCH_CORE, R114) -/

/-- The end of a pass with its outcome, as an observation (60_exceptions.md R171). -/
def passEnds (o : PassOutcome) (s : State) : Flow PassOutcome :=
  .value o { s with outcome := some o, ph := .fin }

/-- Steps 5 and 6 (R121, R122): completion, then the rejection of an aborted or all-zero pass. -/
def concludePass (s : State) : Flow PassOutcome :=
  let t := if s.ok then completePass s else s
  if !t.ok then passEnds .aborted (clearSession t)
  else if t.rom = 0#64 then passEnds .zeroAddress (clearSession t)
  else passEnds .found t

/-- Steps 3 to 6, after presence: the command byte (R117), the 64 positions, the conclusion. -/
def searchPositions (cmd : Byte) (s : State) : Flow PassOutcome :=
  match positions 64 { busWriteByte cmd s with lz := 0#7, ok := true } with
  | .raised t => .raised t
  | .value _ t => concludePass t

/-- SEARCH_CORE(cmd) (R114): Exhausted (R115), NoPresence (R116), else the pass proper. -/
def searchCore (cmd : Byte) (s : State) : Flow PassOutcome :=
  if s.ldf then passEnds .exhausted s
  else
    let t := { s with ph := .rst, outcome := none }
    if (busReset t).1 then searchPositions cmd (busReset t).2
    else passEnds .noPresence (clearSession (busReset t).2)

/-- `RES <- found; VFOUND <- 0; VSAME <- 0`, and the command ends (R111 to R113). After a raise nothing
of it runs (60_exceptions.md R173). -/
def endSearch : Flow PassOutcome → State
  | .raised t => t
  | .value o t => { t with result := searchResult (isFound o), ph := .idle }

/-! ### The commands -/

/-- RESET_SEARCH (R110). -/
def execResetSearch (s : State) : Host.Outcome State Fault Refusal := .next (clearSession s)

/-- FIRST (R111): RESET_SEARCH, then a pass with SEARCH_COMMAND. -/
def execFirst (s : State) : Host.Outcome State Fault Refusal :=
  .next (endSearch (searchCore Config.searchCommand (clearSession s)))

/-- NEXT (R112): a pass with SEARCH_COMMAND. -/
def execNext (s : State) : Host.Outcome State Fault Refusal :=
  .next (endSearch (searchCore Config.searchCommand s))

/-- SEARCH `cmd` (R113): a pass with the command byte `cmd`, sent verbatim. -/
def execSearch (cmd : Nat) (s : State) : Host.Outcome State Fault Refusal :=
  withImm8 cmd fun c => .next (endSearch (searchCore c s))

end Sys2Proof.Machine
end

