-- ==== Sys2Proof/Machine/Verify.lean ====
section
/-!
DEFINITION. VERIFY (spec/43_verify.md R150 to R154).
-/

namespace Sys2Proof.Machine

/-- Phase VSAVE (R150): the shadows take the session and its written-mask (R153). -/
def saveSession (s : State) : State :=
  { s with sRom := s.rom, sRomW := s.romW, sLd := s.ld, sLfd := s.lfd, sLdf := s.ldf }

/-- The anchor (R151): `LD <- 64; LDF <- 0`. -/
def anchorSession (s : State) : State := { s with ld := 64#7, ldf := false }

/-- Phase VRESTORE (R150, R153). -/
def restoreSession (s : State) : State :=
  { s with rom := s.sRom, romW := s.sRomW, ld := s.sLd, lfd := s.sLfd, ldf := s.sLdf }

/-- The compare (R150, R152): `same`, or UnwrittenRead when a device was found and the saved ROM has an
unwritten bit. -/
def compareSaved (found : Bool) (s : State) : Flow Bool :=
  if found then
    if s.sRomW = allWritten then .value (s.rom == s.sRom) s
    else .raised (raiseFault .unwrittenRead (.verify s.sRomW) s)
  else .value false s

/-- The end of VERIFY after its inner pass: compare, restore, `VFOUND`, `VSAME`, `RES` (R150). A raise
leaves the state as it stands: the restore does not run. -/
def endVerify : Flow PassOutcome → State
  | .raised t => t
  | .value o t =>
    match compareSaved (isFound o) t with
    | .raised u => u
    | .value same u =>
      { restoreSession u with result := verifyResult (isFound o) same, ph := .idle }

/-- VERIFY (R150): save, anchor, one pass with SEARCH_COMMAND, compare, restore, report. -/
def execVerify (s : State) : Host.Outcome State Fault Refusal :=
  .next (endVerify (searchCore Config.searchCommand
    (anchorSession (saveSession { s with ph := .vsave }))))

end Sys2Proof.Machine
end

