-- ==== Sys2Proof/Machine/Dispatch.lean ====
section
/-!
DEFINITION. One arm per command (spec/30_encoding.md R71): each calls its meaning.
-/

namespace Sys2Proof.Machine

def exec (i : Instr) (s : State) : Host.Outcome State Fault Refusal :=
  match i with
  | .resetSearch => Sys2Proof.Machine.execResetSearch s
  | .first => Sys2Proof.Machine.execFirst s
  | .next => Sys2Proof.Machine.execNext s
  | .search cmd => Sys2Proof.Machine.execSearch cmd s
  | .targetSetup fc => Sys2Proof.Machine.execTargetSetup fc s
  | .familySkipSetup => Sys2Proof.Machine.execFamilySkipSetup s
  | .verify => Sys2Proof.Machine.execVerify s
  | .crcClear => Sys2Proof.Machine.execCrcClear s
  | .crcUpdate b => Sys2Proof.Machine.execCrcUpdate b s

end Sys2Proof.Machine
end

