-- ==== Sys2Proof/Machine/Port.lean ====
section
/-!
DEFINITION. What the block does with one item from outside (spec/20_memory.md R50, R58; 60_exceptions.md
R173 to R177; 70_reset_and_hazards.md R190): a command word, a register read, a hardware reset, a change
of the bus between commands.
-/

namespace Sys2Proof.Machine

/-- A command that did not fault completes and the host is unblocked (60_exceptions.md R177); one that
faulted does not complete (R173). -/
def commandDone (w : Word) (s : State) : State :=
  if isHalted s then s else { s with answers := s.answers ++ [.completed w] }

/-- A command word at the command port: an illegal word raises IllegalCommand before any state change
or bus event (30_encoding.md R73); a legal one runs its command to the end (20_memory.md R58). -/
def acceptCommand (w : Word) (s : State) : Host.Outcome State Fault Refusal :=
  match decode w with
  | .error _ => .next (raiseFault .illegalCommand (.word w) s)
  | .ok i =>
    match exec i s with
    | .next t => .next (commandDone w t)
    | .fault f => .fault f
    | .refused r => .refused r

/-- One item from outside. A halted block accepts no command and answers no read: the item passes
without any effect or answer (60_exceptions.md R173; log entry 1). Only a hardware reset ends the
halt (R174). -/
def accept (i : HostInput) (s : State) : Host.Outcome State Fault Refusal :=
  match i with
  | .hardwareReset => .next (hardwareReset s)
  | .busChange b => .next { s with bus := b }
  | .command w => if isHalted s then .next s else acceptCommand w s
  | .read off => if isHalted s then .next s else .next (hostRead off s)

/-- Nothing comes from outside: the block waits in IDLE (70_reset_and_hazards.md R190); a halted block
is stuck (93_implementation_defined.md U13). -/
def await (s : State) : Host.Outcome State Fault Refusal :=
  if isHalted s then .fault (.halted s.fault) else .next s

/-- Puts a command word at the head of what the outside will do. -/
def sendCommand (w : Word) (s : State) : State := { s with inputs := .command w :: s.inputs }

end Sys2Proof.Machine
end

