-- ==== Sys2Proof/Machine/Step.lean ====
section
/-!
DEFINITION. One step of the block: the next item from outside, handled whole (spec/20_memory.md R58,
R59: commands are atomic and run in the order the host issues them).
-/

namespace Sys2Proof.Machine

/-- One step: the next item from outside, or waiting. -/
def step (s : State) : Host.Outcome State Fault Refusal :=
  match s.inputs with
  | [] => await s
  | i :: rest => accept i { s with inputs := rest }

/-- `s` with a command word where `step` takes its next one: at the head of the command port
(log entry 1). The bits above `nbits` are 0. -/
def State.withFetchWord (s : State) (nbits w : Nat) : State :=
  sendCommand (BitVec.ofNat 16 (w % 2 ^ nbits)) s

end Sys2Proof.Machine
end

