-- ==== Sys2Proof/Machine/Assembler.lean ====
section
/-!
DEFINITION. The assembler's syntax (spec/30_encoding.md R75, R77) and the pseudo-instruction and host
macros of R76, which expand into commands and register reads.
-/

namespace Sys2Proof.Machine

/-- Why a source line is rejected (R75, R77). -/
inductive AsmError where
  /-- No mnemonic of R71 and not `RD`. -/
  | unknownMnemonic
  /-- `RD` without exactly one name of 20_memory.md R51. -/
  | badRegister
  /-- An operand that is no number. -/
  | badNumber
  /-- More than one operand. -/
  | extraOperand
  /-- A term without an encoding (R77). -/
  | illFormed (e : IllFormed)
deriving DecidableEq, Repr

/-! ### A line of text -/

/-- The spelling of a mnemonic (R71). -/
def mnemonicName : Mnemonic → String
  | .resetSearch => "RESET_SEARCH"
  | .first => "FIRST"
  | .next => "NEXT"
  | .search => "SEARCH"
  | .targetSetup => "TARGET_SETUP"
  | .familySkipSetup => "FAMILY_SKIP_SETUP"
  | .verify => "VERIFY"
  | .crcClear => "CRC_CLEAR"
  | .crcUpdate => "CRC_UPDATE"

/-- All mnemonics, in the order of R71. -/
def allMnemonics : List Mnemonic :=
  [.resetSearch, .first, .next, .search, .targetSetup, .familySkipSetup, .verify, .crcClear, .crcUpdate]

/-- The spelling of a register name (20_memory.md R51). -/
def registerName : RegName → List Char
  | .rom i => ['R', 'O', 'M', Char.ofNat (48 + i.val)]
  | .ld => "LD".toList
  | .lfd => "LFD".toList
  | .flags => "FLAGS".toList
  | .result => "RESULT".toList
  | .crc => "CRC".toList

/-- All register names, in the order of 20_memory.md R51. -/
def allRegisters : List RegName :=
  [.rom 0, .rom 1, .rom 2, .rom 3, .rom 4, .rom 5, .rom 6, .rom 7, .ld, .lfd, .flags, .result, .crc]

/-- `;` starts a comment (R75). -/
def dropComment : List Char → List Char
  | [] => []
  | c :: cs => if c = ';' then [] else c :: dropComment cs

/-- The words of a line; `word` holds the letters of the current one, last first. -/
def wordsFrom (word : List Char) : List Char → List (List Char)
  | [] => if word.isEmpty then [] else [word.reverse]
  | c :: cs =>
    if c = ' ' ∨ c = '\t' then
      if word.isEmpty then wordsFrom [] cs else word.reverse :: wordsFrom [] cs
    else wordsFrom (c :: word) cs

/-- A digit in base 10 or 16 (log entry 8: letters of either case). -/
def digitValue (base : Nat) (c : Char) : Option Nat :=
  let n := c.toNat
  let v :=
    if 48 ≤ n ∧ n ≤ 57 then some (n - 48)
    else if 65 ≤ n ∧ n ≤ 70 then some (n - 55)
    else if 97 ≤ n ∧ n ≤ 102 then some (n - 87)
    else none
  v.filter fun d => d < base

/-- The number a nonempty list of digits spells, after the digits that gave `acc`. -/
def digitsFrom (base : Nat) (acc : Nat) : List Char → Option Nat
  | [] => some acc
  | c :: cs =>
    match digitValue base c with
    | some d => digitsFrom base (acc * base + d) cs
    | none => none

/-- An immediate: hexadecimal with the marker `0x`, or decimal (R75). -/
def parseNumber : List Char → Option Nat
  | '0' :: 'x' :: c :: cs => digitsFrom 16 0 (c :: cs)
  | c :: cs => digitsFrom 10 0 (c :: cs)
  | [] => none

/-- The words of a line as one line of a host's program (R75). -/
def parseWords : List (List Char) → Except AsmError AsmLine
  | [] => .ok .blank
  | op :: args =>
    if op = ['R', 'D'] then
      match args with
      | [name] =>
        match allRegisters.find? fun r => registerName r == name with
        | some r => .ok (.rd r)
        | none => .error .badRegister
      | _ => .error .badRegister
    else
      match allMnemonics.find? fun m => (mnemonicName m).toList == op with
      | none => .error .unknownMnemonic
      | some m =>
        match args with
        | [] => .ok (.command ⟨m, none⟩)
        | [a] =>
          match parseNumber a with
          | some n => .ok (.command ⟨m, some n⟩)
          | none => .error .badNumber
        | _ :: _ :: _ => .error .extraOperand

/-- A line of text as one line of a host's program (R75). -/
def parseLine (line : List Char) : Except AsmError AsmLine := parseWords (wordsFrom [] (dropComment line))

/-- What the host does on a line: nothing, a command word, or a register read; a term without an
encoding is rejected (R77). -/
def assembleLine : AsmLine → Except AsmError (Option HostInput)
  | .blank => .ok none
  | .rd r => .ok (some (.read r.offset))
  | .command t =>
    match t.check with
    | .error e => .error (.illFormed e)
    | .ok i =>
      match encode i with
      | some w => .ok (some (.command w))
      | none => .error (.illFormed .immediateOutOfRange)

/-- What the host does on a program's lines, in order. -/
def assemble : List (List Char) → Except AsmError (List HostInput)
  | [] => .ok []
  | line :: lines =>
    match parseLine line with
    | .error e => .error e
    | .ok l =>
      match assembleLine l, assemble lines with
      | .error e, _ => .error e
      | .ok _, .error e => .error e
      | .ok none, .ok is => .ok is
      | .ok (some i), .ok is => .ok (i :: is)

/-! ### The host at the ports

The host's macros use the ports as `step` does, through `accept`: a halted block accepts no command and
answers no read, and a request that faults does not complete (60_exceptions.md R173). -/

/-- Goes on after a request that completed; a halt ends the whole. -/
def Flow.andThen {α β : Type} (x : Flow α) (f : α → State → Flow β) : Flow β :=
  match x with
  | .raised t => .raised t
  | .value a t => f a t

/-- One request of the host, and whether it completes. -/
def hostRequest (x : HostInput) (s : State) : Flow Unit :=
  match accept x s with
  | .next t => if isHalted t then .raised t else .value () t
  | .fault _ => .raised s
  | .refused _ => .raised s

/-- The host issues a command and is blocked until it completes (R177). A term without a word cannot be
issued (R77). -/
def hostCommand (i : Instr) (s : State) : Flow Unit :=
  match encode i with
  | some w => hostRequest (.command w) s
  | none => .raised s

/-- The host issues commands in order. -/
def hostCommands : List Instr → State → Flow Unit
  | [], s => .value () s
  | i :: is, s => (hostCommand i s).andThen fun _ t => hostCommands is t

/-- `RD`: the byte the host reads at an offset, if the read completes. -/
def hostGet (off : Byte) (s : State) : Flow Byte :=
  (hostRequest (.read off) s).andThen fun _ t =>
    match regRead off s with
    | .ok v => .value v t
    | .error _ => .raised t

/-- `RD ROMi` for `n` bytes from byte `i`. -/
def hostGetRom : Nat → Nat → State → Flow (List Byte)
  | 0, _, s => .value [] s
  | n + 1, i, s =>
    (hostGet (BitVec.ofNat 8 i) s).andThen fun v t =>
      (hostGetRom n (i + 1) t).andThen fun vs u => .value (v :: vs) u

/-! ### The pseudo-instruction and the host macros (R76) -/

/-- `CRC8 b0, …, bn-1`: CRC_CLEAR, then one CRC_UPDATE per byte. -/
def crc8Commands (bytes : List Byte) : List Instr :=
  .crcClear :: bytes.map fun b => .crcUpdate b.toNat

/-- CHECK_ROM_CRC's loop over `n` ROM bytes from byte `i`: `RD ROMi` giving v, then `CRC_UPDATE v`. -/
def feedRomBytes : Nat → Nat → State → Flow Unit
  | 0, _, s => .value () s
  | n + 1, i, s =>
    (hostGet (BitVec.ofNat 8 i) s).andThen fun v t =>
      (hostCommand (.crcUpdate v.toNat) t).andThen fun _ u => feedRomBytes n (i + 1) u

/-- `CHECK_ROM_CRC`: feed bytes 0 to 6, then compare RD CRC with RD ROM7. -/
def checkRomCrc (s : State) : Flow Bool :=
  (hostCommand .crcClear s).andThen fun _ s1 =>
    (feedRomBytes 7 0 s1).andThen fun _ s2 =>
      (hostGet RegName.crc.offset s2).andThen fun c s3 =>
        (hostGet (RegName.rom 7).offset s3).andThen fun r s4 => .value (c == r) s4

/-- `CHECK_ROM_CRC`, the other form: feed all 8 bytes and test the CRC for 0. -/
def checkRomCrcAll (s : State) : Flow Bool :=
  (hostCommand .crcClear s).andThen fun _ s1 =>
    (feedRomBytes 8 0 s1).andThen fun _ s2 =>
      (hostGet RegName.crc.offset s2).andThen fun c s3 => .value (c == 0x00#8) s3

/-- ENUMERATE's loop, at most `n` rounds: while RD RESULT has RES = 1, record ROM0 to ROM7, then NEXT. What
was recorded, and how it ended. -/
def enumerateFrom : Nat → State → List Rom × Flow Unit
  | 0, s => ([], .value () s)
  | n + 1, s =>
    match hostGet RegName.result.offset s with
    | .raised t => ([], .raised t)
    | .value r t =>
      if r.getLsbD 0 then
        match hostGetRom 8 0 t with
        | .raised u => ([], .raised u)
        | .value bytes u =>
          match hostCommand .next u with
          | .raised v => ([romOfBytes bytes], .raised v)
          | .value _ v =>
            let rest := enumerateFrom n v
            (romOfBytes bytes :: rest.1, rest.2)
      else ([], .value () t)

/-- `ENUMERATE`, at most `n` rounds: FIRST, then the loop. -/
def enumerate (n : Nat) (s : State) : List Rom × Flow Unit :=
  match hostCommand .first s with
  | .raised t => ([], .raised t)
  | .value _ t => enumerateFrom n t

end Sys2Proof.Machine
end

