-- ==== Sys2Proof/Machine/Micro.lean ====
section
/-!
DEFINITION. The micro-step view (spec/41_search.md R126, 10_state.md R32): the block stepping through
the phases of PH inside one command, at most one bus event a phase. The host sees commands whole
(20_memory.md R58), so `step` does not use it; that the two agree is a statement.
-/

namespace Sys2Proof.Machine

/-- The command byte a pass sends (41_search.md R117). -/
def commandByte : Instr → Byte
  | .search cmd => BitVec.ofNat 8 cmd
  | .resetSearch | .first | .next | .targetSetup _ | .familySkipSetup | .verify | .crcClear
  | .crcUpdate _ => Config.searchCommand

/-- The start of a pass: to RST if LDF = 0, else to FIN, exhausted (R126, R115). -/
def startPass (s : State) : State :=
  if s.ldf then { s with outcome := some .exhausted, ph := .fin }
  else { s with outcome := none, ph := .rst }

/-- Phase IDLE (R126). A command without a pass completes in this step. -/
def idlePhase (i : Instr) (s : State) : State :=
  match i with
  | .first => startPass (clearSession s)
  | .next => startPass s
  | .search _ => startPass s
  | .verify => { s with ph := .vsave }
  | .resetSearch => clearSession s
  | .targetSetup fc => targetSetup (BitVec.ofNat 8 fc) s
  | .familySkipSetup => familySkip s
  | .crcClear => { s with crc := 0x00#8 }
  | .crcUpdate b => { s with crc := crcStep s.crc (BitVec.ofNat 8 b) }

/-- Phase RST (R126, R116). That R116 clears LD, LFD and LDF here and not in FIN is log entry 6
(DESIGN CHOICE). -/
def rstPhase (s : State) : State :=
  let t := (busReset s).2
  if (busReset s).1 then { t with ph := .cmd 0 }
  else { clearSession t with outcome := some .noPresence, ph := .fin }

/-- Phases CMD0 to CMD7 (R126, R117); after CMD7 the positions begin. That R114's `LZ <- 0; OK <- 1` stands
in CMD7 and not in RID(1) is log entry 6 (DESIGN CHOICE). -/
def cmdPhase (i : Instr) (n : Nat) (s : State) : State :=
  let t := busWriteBit ((commandByte i).getLsbD n) s
  if n < 7 then { t with ph := .cmd (n + 1) } else { t with lz := 0#7, ok := true, ph := .rid 1 }

/-- Phase RCMP(k) (R126): to FIN on an abort, to the halt on UnwrittenRead, else to WDIR(k). -/
def rcmpPhase (K : Nat) (s : State) : State :=
  match resolve K (readCmp K s) with
  | .raised t => t
  | .value .abort t => { t with ph := .fin }
  | .value .go t => { t with ph := .wdir K }

/-- Phase WDIR(k) (R126). -/
def wdirPhase (K : Nat) (s : State) : State :=
  { writeDirection K s with ph := if K < 64 then .rid (K + 1) else .fin }

/-- The pass as FIN finds it: ended before (Exhausted, NoPresence), or to be concluded (R121, R122). -/
def finPass (s : State) : Flow PassOutcome :=
  match s.outcome with
  | some o => .value o s
  | none => concludePass s

/-- VERIFY's part of FIN (log entry 6): the compare and RESULT (43_verify.md R150), then VRESTORE. -/
def finVerify : Flow PassOutcome → State
  | .raised t => t
  | .value o t =>
    match compareSaved (isFound o) t with
    | .raised u => u
    | .value same u => { u with result := verifyResult (isFound o) same, ph := .vrestore }

/-- Phase FIN (R126). -/
def finPhase (i : Instr) (s : State) : State :=
  match i with
  | .verify => finVerify (finPass s)
  | .first | .next | .search _ => endSearch (finPass s)
  | .resetSearch | .targetSetup _ | .familySkipSetup | .crcClear | .crcUpdate _ => s

/-- One micro-step of command `i` (R126). A halted block takes none (60_exceptions.md R173). -/
def microStep (i : Instr) (s : State) : State :=
  if isHalted s then s
  else
    match s.ph with
    | .idle => idlePhase i s
    | .vsave => startPass (anchorSession (saveSession s))
    | .rst => rstPhase s
    | .cmd n => cmdPhase i n s
    | .rid K => { readId K s with ph := .rcmp K }
    | .rcmp K => rcmpPhase K s
    | .wdir K => wdirPhase K s
    | .fin => finPhase i s
    | .vrestore => { restoreSession s with ph := .idle }

/-- At most `n` micro-steps of command `i`, until the block is back in IDLE or halted. -/
def microRun (i : Instr) : Nat → State → State
  | 0, s => s
  | n + 1, s =>
    let t := microStep i s
    if t.ph = .idle ∨ isHalted t = true then t else microRun i n t

/-- The most micro-steps a command takes: VERIFY's IDLE, VSAVE, RST, CMD0 to CMD7, 64 times RID, RCMP,
WDIR, then FIN and VRESTORE. -/
def maxMicroSteps : Nat := 1 + 1 + 1 + 8 + 64 * 3 + 1 + 1

end Sys2Proof.Machine
end

