-- ==== Sys2Proof/Machine/System.lean ====
section
/-!
DEFINITION. Several instances (spec/60_exceptions.md R180, 20_memory.md R61): the product of independent
enumerators, each with its own state, ports, bus and history.
-/

namespace Sys2Proof.Machine

/-- The enumerators of a system, one per 1-Wire bus. -/
structure System where
  blocks : List State
deriving DecidableEq, Repr

/-- N_INSTANCES enumerators (00_scope.md R5), all with the parameters of Config (log entry 4). -/
abbrev systemWF (y : System) : Prop := y.blocks.length = Config.nInstances

/-- Instance `n` after hardware reset: on a bus of its own, so with a stream of free answers of its own
(60_exceptions.md R180, 40_bus_primitives.md R96; log entry 3). -/
def instanceReset (n : Nat) : State := { State.reset with bus := .oracle [] ⟨n, 0⟩ }

/-- Every instance after hardware reset. -/
def systemReset : System := ⟨(List.range Config.nInstances).map instanceReset⟩

/-- A step of instance `n`; the others do nothing. -/
def systemStep (y : System) (n : Fin y.blocks.length) : Host.Outcome System Fault Refusal :=
  match step y.blocks[n] with
  | .next t => .next ⟨y.blocks.set n t⟩
  | .fault f => .fault f
  | .refused r => .refused r

end Sys2Proof.Machine
end

