-- ==== Sys2Proof/Safety.lean ====
section
/-!
DEFINITION. The terms claims are stated in: what it means for a state to be sound (spec/10_state.md R26,
41_search.md R112), which fields make up the session, the block, the surroundings.
-/

namespace Sys2Proof.Machine

/-- The ranges of R26 and R20: LD, LZ, K in 0..64, LFD in 0..8, the shadows as their originals. -/
structure InRange (s : State) : Prop where
  ld   : s.ld.toNat ≤ 64
  lfd  : s.lfd.toNat ≤ 8
  lz   : s.lz.toNat ≤ 64
  k    : s.k.toNat ≤ 64
  sLd  : s.sLd.toNat ≤ 64
  sLfd : s.sLfd.toNat ≤ 8

/-- Every position before `n` holds a written value, so a replay below `n` cannot fault (R112). -/
def WrittenBelow (romW : Rom) (n : Nat) : Prop := ∀ k, 1 ≤ k → k < n → romBit romW k = true

/-- FAULT_INFO is the information of the fault code (60_exceptions.md R172). -/
def faultInfoFits : FaultCode → FaultInfo → Bool
  | .none, _ => true
  | .illegalCommand, .word _ => true
  | .unwrittenRead, .replay _ => true
  | .unwrittenRead, .verify _ => true
  | .unwrittenRead, .host _ => true
  | .unmappedRegister, .offset _ => true
  | _, _ => false

/-- What holds between two host-visible steps of the block. -/
structure Sound (s : State) : Prop where
  range  : InRange s
  /-- The host sees PH only as IDLE (10_state.md R32), unless a fault halted a command. -/
  idle   : isHalted s = false → s.ph = .idle
  /-- "LD > 0 arises only after a pass or TARGET_SETUP has written the bits below it" (R112). -/
  replay : isHalted s = false → WrittenBelow s.romW s.ld.toNat
  /-- "Every ROM bit below it has been written by the pass that set LFD" (42_family.md R142). -/
  family : isHalted s = false → WrittenBelow s.romW s.lfd.toNat
  /-- VSAME = 1 only with VFOUND = 1 (43_verify.md R152). -/
  result : s.result.vsame = true → s.result.vfound = true
  info   : faultInfoFits s.fault s.faultInfo = true

/-- The command runs a search pass (41_search.md R114: FIRST, NEXT, SEARCH and VERIFY, and nothing else). -/
def runsPass : Instr → Bool
  | .first | .next | .search _ | .verify => true
  | .resetSearch | .targetSetup _ | .familySkipSetup | .crcClear | .crcUpdate _ => false

/-- Command `i` in state `s` runs a pass and reports it in RES: from the session of `s0`, with the command
byte `cmd` (41_search.md R111 to R113, R117). -/
def PassStart (i : Instr) (s s0 : State) (cmd : Byte) : Prop :=
  (i = .first ∧ s0 = clearSession s ∧ cmd = Config.searchCommand) ∨
  (i = .next ∧ s0 = s ∧ cmd = Config.searchCommand) ∨
  (∃ n, i = .search n ∧ n < 256 ∧ s0 = s ∧ cmd = BitVec.ofNat 8 n)

/-- Command `i` in state `s` runs a pass from the session of `s0` with the command byte `cmd`: a search
command, or VERIFY, whose pass starts from the saved and anchored session (43_verify.md R150, R151). -/
def PassBegins (i : Instr) (s s0 : State) (cmd : Byte) : Prop :=
  PassStart i s s0 cmd ∨
    (i = .verify ∧ s0 = anchorSession (saveSession s) ∧ cmd = Config.searchCommand)

/-- The state a command's meaning leaves, said of any state, a halted one too. What a host gets from a block
is `hostCommand` (Assembler.lean). -/
def afterExec (i : Instr) (s : State) : State :=
  match exec i s with
  | .next t => t
  | .fault _ => s
  | .refused _ => s

/-- The two fields of the block that a search command never writes, and the port's two lists. -/
structure KeepsOutsideSearch (s t : State) : Prop where
  crc     : t.crc = s.crc
  inputs  : t.inputs = s.inputs
  answers : t.answers = s.answers

/-- The VERIFY shadows are the same (10_state.md R31: only VERIFY writes them). -/
structure KeepsShadows (s t : State) : Prop where
  sRom  : t.sRom = s.sRom
  sRomW : t.sRomW = s.sRomW
  sLd   : t.sLd = s.sLd
  sLfd  : t.sLfd = s.sLfd
  sLdf  : t.sLdf = s.sLdf

/-- The session and its written-mask are the same (43_verify.md R153). -/
structure KeepsSession (s t : State) : Prop where
  rom  : t.rom = s.rom
  romW : t.romW = s.romW
  ld   : t.ld = s.ld
  lfd  : t.lfd = s.lfd
  ldf  : t.ldf = s.ldf

/-- LD, LFD and LDF at their initial values (41_search.md R110, R122). -/
structure SessionCleared (t : State) : Prop where
  ld  : t.ld = 0#7
  lfd : t.lfd = 0#4
  ldf : t.ldf = false

/-! ### What a pass does, said from the bus's answers (41_search.md R118 to R125)

A reading is the pair (id, cmp) of one position. `s0` is the state a pass starts from. -/

/-- The two reads of one position: the bit and its complement. -/
abbrev Reading := Bool × Bool

/-- The answers in the order the block asks for them. -/
def scriptOf : List Reading → List Bool
  | [] => []
  | r :: rs => r.1 :: r.2 :: scriptOf rs

/-- The reading at search position `k`. -/
def readingAt (rs : List Reading) (k : Nat) : Reading := rs.getD (k - 1) (true, true)

/-- Reading `(1, 1)`: nobody responded (R118). -/
def nobodyAt (rs : List Reading) (k : Nat) : Bool := (readingAt rs k).1 && (readingAt rs k).2

/-- Reading `(0, 0)`: a discrepancy (R118). -/
def discrepancyAt (rs : List Reading) (k : Nat) : Bool := !(readingAt rs k).1 && !(readingAt rs k).2

/-- The direction the rules give at position `k` (R118 steps c and d, R119). -/
def ruleDirection (s0 : State) (rs : List Reading) (k : Nat) : Bool :=
  if discrepancyAt rs k then
    if k < s0.ld.toNat then romBit s0.rom k else k == s0.ld.toNat
  else (readingAt rs k).1

/-- Position `k` is a discrepancy at which the pass takes direction 0 (R120). -/
def tookZeroAt (s0 : State) (rs : List Reading) (k : Nat) : Bool :=
  discrepancyAt rs k && !ruleDirection s0 rs k

/-- The highest position up to `n` at which direction 0 was taken at a discrepancy, 0 if none (R120). -/
def highestZero (s0 : State) (rs : List Reading) : Nat → Nat
  | 0 => 0
  | n + 1 => if tookZeroAt s0 rs (n + 1) then n + 1 else highestZero s0 rs n

/-- LFD after positions 1 to `n` (R120): the highest such position up to 8, else what it was. -/
def familyZero (s0 : State) (rs : List Reading) (n : Nat) : Nat :=
  if highestZero s0 rs (min n 8) = 0 then s0.lfd.toNat else highestZero s0 rs (min n 8)

/-- No position up to `n` reads `(1, 1)`. -/
def SomebodyUpTo (rs : List Reading) (n : Nat) : Prop := ∀ k, 1 ≤ k → k ≤ n → nobodyAt rs k = false

/-- Every replay up to position `n` reads a written bit (R119). -/
def ReplayReadable (s0 : State) (rs : List Reading) (n : Nat) : Prop :=
  ∀ k, 1 ≤ k → k ≤ n → discrepancyAt rs k = true → k < s0.ld.toNat → romBit s0.romW k = true

/-- Positions 1 to `n` of ROM hold the rules' directions and are written; the others keep their bit and
their written-mask (R124). -/
def WritesPrefix (s0 : State) (rs : List Reading) (n : Nat) (t : State) : Prop :=
  ∀ k, 1 ≤ k → k ≤ 64 →
    if k ≤ n then romBit t.rom k = ruleDirection s0 rs k ∧ romBit t.romW k = true
    else romBit t.rom k = romBit s0.rom k ∧ romBit t.romW k = romBit s0.romW k

/-- The 8 events of a command byte, bit 0 first (40_bus_primitives.md R94). -/
def commandEvents (b : Byte) : List BusEvent := (List.range 8).map fun i => .w (b.getLsbD i)

/-- The two reads of position `k`. -/
def readEvents (rs : List Reading) (k : Nat) : List BusEvent :=
  [.r (readingAt rs k).1, .r (readingAt rs k).2]

/-- The events of a pass that completes `n` positions: `RST`, 8 `W`, `n` times `R R W` (R125). -/
def passEvents (cmd : Byte) (s0 : State) (rs : List Reading) (n : Nat) : List BusEvent :=
  .rst true :: commandEvents cmd ++
    (List.range n).flatMap fun i => readEvents rs (i + 1) ++ [.w (ruleDirection s0 rs (i + 1))]

/-- How a pass from `s0` that issued `events` leaves `t`, for each outcome (60_exceptions.md R171, with its
event count, 41_search.md R125). -/
def PassEnd (s0 t : State) (events : List BusEvent) : PassOutcome → Prop
  | .found => events.length = 201 ∧ t.romW = allWritten ∧ t.rom ≠ 0#64 ∧ t.ld = t.lz ∧
      (t.ldf = true ↔ t.lz = 0#7)
  | .exhausted => s0.ldf = true ∧ events = [] ∧ KeepsSession s0 t
  | .noPresence => events = [.rst false] ∧ t.rom = s0.rom ∧ t.romW = s0.romW ∧ SessionCleared t
  | .aborted => (∃ before, events = before ++ [.r true, .r true]) ∧ events.length < 201 ∧ SessionCleared t
  | .zeroAddress => events.length = 201 ∧ t.romW = allWritten ∧ t.rom = 0#64 ∧ SessionCleared t

/-! ### States the block cannot tell apart -/

/-- Equal in everything a rule may read: the fields 10_state.md R35 and 93_implementation_defined.md U6
leave unspecified (transients, shadows, FAULT_INFO while there is no fault) and the unwritten ROM bits
(U5) may differ, and so may the outcome, which is an observation. -/
structure Alike (s t : State) : Prop where
  romW      : s.romW = t.romW
  rom       : ∀ k, 1 ≤ k → k ≤ 64 → romBit s.romW k = true → romBit s.rom k = romBit t.rom k
  ld        : s.ld = t.ld
  lfd       : s.lfd = t.lfd
  ldf       : s.ldf = t.ldf
  crc       : s.crc = t.crc
  result    : s.result = t.result
  ph        : s.ph = t.ph
  fault     : s.fault = t.fault
  faultInfo : isHalted s = true → s.faultInfo = t.faultInfo
  history   : s.history = t.history
  bus       : s.bus = t.bus
  inputs    : s.inputs = t.inputs
  answers   : s.answers = t.answers

/-! ### The reference bus (40_bus_primitives.md R97 to R101) -/

/-- A reference bus on which some device joins a pass with command byte `cmd`. -/
structure HasParticipant (b : RefBus) (cmd : Byte) : Prop where
  wf    : refBusWF b
  free  : b.stuck = false
  joins : ∃ d ∈ b.devices, Config.participates cmd d = true

/-- The bus is the reference bus with the devices and line of `b`, in any state of its own. -/
def BusOf (b : RefBus) (bus : Bus) : Prop :=
  ∃ c, bus = .reference c ∧ c.devices = b.devices ∧ c.stuck = b.stuck

end Sys2Proof.Machine
end

