-- ==== Sys2Proof/Certificates/Slice0/Obligations.lean ====
section
/-!
DEFINITION. The statements for the provers, in the order of the spec's files: encoding, register reads,
bus primitives, search, family, VERIFY, CRC, faults, reset, then whole-machine rules.
-/

open Sys2Proof Sys2Proof.Machine

/-! ### Encoding (spec/30_encoding.md) -/

/-- 95_test_vectors.md §6, rows of table X: words written out from R70 and R71. -/
def Obligations.SampleWordsDecodeAsTabled : Prop :=
  decode 0x0000#16 = .ok .resetSearch ∧ decode 0x0001#16 = .ok .first ∧ decode 0x0002#16 = .ok .next ∧
  decode 0xF003#16 = .ok (.search 0xF0) ∧ decode 0x2804#16 = .ok (.targetSetup 0x28) ∧
  decode 0x0005#16 = .ok .familySkipSetup ∧ decode 0x0006#16 = .ok .verify ∧
  decode 0x0007#16 = .ok .crcClear ∧ decode 0x5A08#16 = .ok (.crcUpdate 0x5A) ∧
  decode 0x0009#16 = .error .opcode ∧ decode 0xF013#16 = .error .reserved ∧
  decode 0xFF06#16 = .error .argument

/-- R70 to R72: decode of encode is the identity on every well-formed command. -/
def Obligations.DecodeOfEncodeIsIdentity : Prop :=
  ∀ i : Instr, i.WF → ∃ w, encode i = some w ∧ decode w = .ok i

/-- R70 to R73: a word that decodes is the encoding of the (well-formed) command it decodes to. -/
def Obligations.EncodeOfDecodeIsIdentity : Prop :=
  ∀ (w : Word) (i : Instr), decode w = .ok i → i.WF ∧ encode i = some w

/-- R73: exactly the words the rule lists are illegal, and such a word raises IllegalCommand with the
word, before any other change and any bus event. -/
def Obligations.IllegalWordsRaiseIllegalCommand : Prop :=
  ∀ w : Word,
    ((∃ e, decode w = .error e) ↔
      9 ≤ (opField w).toNat ∨ rsvField w ≠ 0#4 ∨
      ((opField w).toNat ∈ [0x0, 0x1, 0x2, 0x5, 0x6, 0x7] ∧ argField w ≠ 0#8)) ∧
    ∀ (s : State) (rest : List HostInput) (e : Illegal),
      decode w = .error e → isHalted s = false → s.inputs = .command w :: rest →
      step s = .next { s with inputs := rest, fault := .illegalCommand, faultInfo := .word w }

/-- R73: 774 of the 65 536 words are legal. -/
def Obligations.LegalWordsNumber774 : Prop :=
  ((List.range 65536).filter fun n =>
    match decode (BitVec.ofNat 16 n) with | .ok _ => true | .error _ => false).length = 774

/-- R74, with R71: a word decodes to a command of a row exactly when it selects the row; no two rows match
the same word; a word that decodes to no command raises IllegalCommand. -/
def Obligations.DecodeFollowsOpcodeTable : Prop :=
  (∀ (w : Word) (r : OpcodeRow), r ∈ opcodeTable →
    (r.selects w = true ↔ ∃ i : Instr, decode w = .ok i ∧ i.mnemonic = r.mnemonic)) ∧
  (∀ w : Word, opcodeTable.Pairwise fun r q => ¬ (r.selects w = true ∧ q.selects w = true)) ∧
  ∀ (w : Word) (s : State), (∃ i : Instr, decode w = .ok i) ∨
    acceptCommand w s = .next { s with fault := .illegalCommand, faultInfo := .word w }

/-- R77: an assembler term is rejected for an immediate outside 0..255 or an operand on an argument-free
mnemonic; any other term with its operand gives the word that decodes back to it. That a missing operand is
rejected, as operandMissing, is the model's choice: log entry 8 (DESIGN CHOICE). -/
def Obligations.AssemblerAcceptsExactlyEncodableTerms : Prop :=
  ∀ t : AsmTerm,
    match t.mnemonic.shape, t.operand with
    | .inl i, none => ∃ w, assembleLine (.command t) = .ok (some (.command w)) ∧ decode w = .ok i
    | .inl _, some _ => assembleLine (.command t) = .error (.illFormed .operandNotAllowed)
    | .inr _, none => assembleLine (.command t) = .error (.illFormed .operandMissing)
    | .inr f, some n =>
      if n ≤ 255 then ∃ w, assembleLine (.command t) = .ok (some (.command w)) ∧ decode w = .ok (f n)
      else assembleLine (.command t) = .error (.illFormed .immediateOutOfRange)

/-! ### Bit positions (spec/00_scope.md) -/

/-- R6: search position `k` is bit `(k-1) mod 8` of byte `(k-1) div 8`, so position 1 is bit 0 of byte 0
and position 64 bit 7 of byte 7; eight bytes give back the ROM code they are the bytes of (R7). -/
def Obligations.SearchPositionIsOneBitOfOneByte : Prop :=
  (∀ (a : Rom) (k : Nat), 1 ≤ k → k ≤ 64 →
    byteIndex k ≤ 7 ∧ bitNo k ≤ 7 ∧ 8 * byteIndex k + bitNo k + 1 = k ∧
    romBit a k = (romByte a (byteIndex k)).getLsbD (bitNo k)) ∧
  ∀ a : Rom, romOfBytes (romBytes a) = a

/-- R8: the traversal key is the address value with its 64 bits reversed; it orders ROM codes by the
first search position at which they differ. -/
def Obligations.TraversalKeyIsReversedAddress : Prop :=
  (∀ a : Rom, traversalKey a = a.reverse.toNat) ∧
  ∀ (a b : Rom) (k : Nat), 1 ≤ k → k ≤ 64 → (∀ j, 1 ≤ j → j < k → romBit a j = romBit b j) →
    romBit a k = false → romBit b k = true → traversalKey a < traversalKey b

/-! ### Register reads (spec/20_memory.md) -/

/-- R51, R52: what a read of every offset gives, or the fault it raises. (That it changes nothing is
`HostReadsWriteNoRegister`.) -/
def Obligations.RegisterReadAnswersTheMap : Prop :=
  ∀ (s : State) (off : Byte),
    (off.toNat ≤ 7 → (∀ j, j < 8 → romBit s.romW (8 * off.toNat + j + 1) = true) →
      regRead off s = .ok (romByte s.rom off.toNat)) ∧
    (off.toNat ≤ 7 → (∃ j, j < 8 ∧ romBit s.romW (8 * off.toNat + j + 1) = false) →
      regRead off s = .error (.unwrittenRead, .host off)) ∧
    (off.toNat = 0x08 → ∃ v : Byte, v.toNat = s.ld.toNat ∧ regRead off s = .ok v) ∧
    (off.toNat = 0x09 → ∃ v : Byte, v.toNat = s.lfd.toNat ∧ regRead off s = .ok v) ∧
    (off.toNat = 0x0A → ∃ v : Byte, v.toNat = s.ldf.toNat ∧ regRead off s = .ok v) ∧
    (off.toNat = 0x0B → ∃ v : Byte,
      v.toNat = 4 * s.result.vsame.toNat + 2 * s.result.vfound.toNat + s.result.res.toNat ∧
      regRead off s = .ok v) ∧
    (off.toNat = 0x0C → regRead off s = .ok s.crc) ∧
    (0x0D ≤ off.toNat → regRead off s = .error (.unmappedRegister, .offset off))

/-! ### Bus primitives (spec/40_bus_primitives.md) -/

/-- R94: BusWriteByte issues exactly 8 `W` events, bit 0 first, and writes no state of the block. -/
def Obligations.ByteWriteSendsEightBitsLowFirst : Prop :=
  ∀ (b : Byte) (s : State),
    (busWriteByte b s).history = s.history ++
      [.w (b.getLsbD 0), .w (b.getLsbD 1), .w (b.getLsbD 2), .w (b.getLsbD 3),
       .w (b.getLsbD 4), .w (b.getLsbD 5), .w (b.getLsbD 6), .w (b.getLsbD 7)] ∧
    busWriteByte b s =
      { s with bus := (busWriteByte b s).bus, history := (busWriteByte b s).history }

/-- R95: BusReadByte takes 8 answers, the first is bit 0 of the byte, and writes no state of the block. -/
def Obligations.ByteReadTakesEightBitsLowFirst : Prop :=
  ∀ (s : State) (b : Byte) (rest : List Bool) (asked : Question),
    s.bus = .oracle ((List.range 8).map b.getLsbD ++ rest) asked →
    busReadByte s =
      (b, { s with bus := .oracle rest asked,
                   history := s.history ++ (List.range 8).map fun i => .r (b.getLsbD i) })

/-- R99: the wired-AND reads of one position of the reference bus: 0, 0 when stuck; 1, 1 over an empty
race set; the bit and its complement when all agree; 0, 0 when both values are present; never 1, 1 with a
device in the race. The first read turns RP to `cmp`, the second back to `id`. -/
def Obligations.ReferenceReadsAreWiredAnd : Prop :=
  ∀ b : RefBus, b.rp = .id →
    let first := refRead b
    let second := refRead first.2
    (b.stuck = true → first.1 = false ∧ second.1 = false) ∧
    (b.stuck = false → first.2 = { b with rp := .cmp } ∧ second.2 = b) ∧
    (b.stuck = false → b.race ≠ [] → ¬ (first.1 = true ∧ second.1 = true)) ∧
    (b.stuck = false → b.race = [] → first.1 = true ∧ second.1 = true) ∧
    (b.stuck = false → ∀ v, b.race ≠ [] → (∀ d ∈ b.race, romBit d b.kb = v) →
      first.1 = v ∧ second.1 = !v) ∧
    (b.stuck = false → (∃ d ∈ b.race, romBit d b.kb = true) → (∃ d ∈ b.race, romBit d b.kb = false) →
      first.1 = false ∧ second.1 = false)

/-- R97, R98, R100: after `RST` and the 8 writes of a command byte the reference bus has received that
byte, its race set is the participants, and it is at position 1. -/
def Obligations.ReferenceBusReceivesCommandByte : Prop :=
  ∀ (cmd : Byte) (s : State) (b : RefBus), s.bus = .reference b →
    (busReset s).1 = (!b.devices.isEmpty && !b.stuck) ∧
    (busWriteByte cmd (busReset s).2).bus = .reference
      { b with race := b.devices.filter (Config.participates cmd), nw := 8, cmd := cmd, kb := 1, rp := .id }

/-! ### Search commands (spec/41_search.md) -/

/-- R110: RESET_SEARCH clears LD, LFD and LDF, changes nothing else, is idempotent, and makes NEXT behave
as FIRST. -/
def Obligations.ResetSearchClearsSession : Prop :=
  encode .resetSearch = some 0x0000#16 ∧
  ∀ s : State,
    exec .resetSearch s = .next { s with ld := 0#7, lfd := 0#4, ldf := false } ∧
    afterExec .resetSearch (afterExec .resetSearch s) = afterExec .resetSearch s ∧
    exec .next (afterExec .resetSearch s) = exec .first (afterExec .resetSearch s)

/-- R111, R112, R113: FIRST is RESET_SEARCH followed by `SEARCH SEARCH_COMMAND`, and NEXT is
`SEARCH SEARCH_COMMAND`. -/
def Obligations.FirstAndNextAreSearches : Prop :=
  ∀ s : State,
    exec .first s = exec (.search Config.searchCommand.toNat) (afterExec .resetSearch s) ∧
    exec .next s = exec (.search Config.searchCommand.toNat) s

/-- R193: with LD, LFD and LDF at 0, as after hardware reset or RESET_SEARCH, NEXT behaves exactly as
FIRST. -/
def Obligations.NextIsFirstOnResetSession : Prop :=
  (∀ s : State, s.ld = 0#7 → s.lfd = 0#4 → s.ldf = false → exec .next s = exec .first s) ∧
  ∀ s : State, exec .next (hardwareReset s) = exec .first (hardwareReset s) ∧
    exec .next (afterExec .resetSearch s) = exec .first (afterExec .resetSearch s)

/-- R115: with LDF = 1 a search returns 0 at once: no bus event, no write but RESULT (and PH and the
observed outcome). -/
def Obligations.ExhaustedSearchDoesNothing : Prop :=
  ∀ (i : Instr) (s s0 : State) (cmd : Byte), PassStart i s s0 cmd → s0.ldf = true →
    exec i s = .next { s with result := ⟨false, false, false⟩, ph := .idle, outcome := some .exhausted }

/-- R111, R175: FIRST is never exhausted and never faults, whatever the bus answers: it issues at least
the `RST`, reports RES = 1 exactly when it found a device, and keeps its frame. -/
def Obligations.FirstCompletesOnEveryBus : Prop :=
  ∀ s : State, ∃ t p events, exec .first s = .next t ∧
    t.history = s.history ++ (.rst p :: events) ∧
    t.fault = s.fault ∧ t.faultInfo = s.faultInfo ∧ t.ph = .idle ∧
    t.result.vfound = false ∧ t.result.vsame = false ∧
    (t.result.res = true ↔ t.outcome = some .found) ∧ t.outcome ≠ some .exhausted ∧
    (t.result.res = false → SessionCleared t) ∧
    KeepsOutsideSearch s t ∧ KeepsShadows s t

/-- R112: NEXT and SEARCH complete without a fault from every sound state, whatever the bus answers:
"LD > 0 arises only after a pass or TARGET_SETUP has written the bits below it". -/
def Obligations.NextAndSearchCompleteFromSoundStates : Prop :=
  ∀ (i : Instr) (s s0 : State) (cmd : Byte), PassStart i s s0 cmd → Sound s → isHalted s = false →
    ∃ t, exec i s = .next t ∧ t.fault = .none ∧ t.faultInfo = s.faultInfo ∧ t.ph = .idle ∧
      t.result.vfound = false ∧ t.result.vsame = false ∧
      (t.result.res = true ↔ t.outcome = some .found) ∧
      KeepsOutsideSearch s t ∧ KeepsShadows s t

/-- R116: no presence: one bus event, LD, LFD and LDF cleared, the pass returns 0, ROM and ROM_W
unchanged; for every pass, and in RESULT for FIRST, NEXT and SEARCH. A stuck-low bus reports no presence. -/
def Obligations.NoPresenceClearsSession : Prop :=
  (∀ (cmd : Byte) (s : State), s.ldf = false → (busReset s).1 = false →
    searchCore cmd s = .value .noPresence { (busReset s).2 with
      ld := 0#7, lfd := 0#4, ldf := false, ph := .fin, outcome := some .noPresence }) ∧
  (∀ s : State, ∃ p, (busReset s).2.history = s.history ++ [.rst p] ∧ (busReset s).1 = p) ∧
  (∀ (s : State) (b : RefBus), s.bus = .reference b → b.stuck = true → (busReset s).1 = false) ∧
  ∀ (i : Instr) (s s0 : State) (cmd : Byte), PassStart i s s0 cmd → s0.ldf = false →
    (busReset s).1 = false →
    exec i s = .next { (busReset s).2 with
      ld := 0#7, lfd := 0#4, ldf := false, result := ⟨false, false, false⟩, ph := .idle,
      outcome := some .noPresence }

/-- R121, with R118 to R120, R122, R124, R125: a pass on which somebody answers at all 64 positions. ROM
holds the rules' direction at every position, LD the highest 0-branch, LFD the highest in 1..8 or its
old value, LDF = 1 when there is none; an all-zero address is rejected. The events are `RST`, the
command byte and 64 times `R R W`. -/
def Obligations.CompletedPassFollowsTheRules : Prop :=
  ∀ (i : Instr) (s s0 : State) (cmd : Byte) (rs : List Reading) (rest : List Bool) (asked : Question),
    PassStart i s s0 cmd → s0.ldf = false → s.bus = .oracle (true :: (scriptOf rs ++ rest)) asked →
    rs.length = 64 → SomebodyUpTo rs 64 → ReplayReadable s0 rs 64 →
    ∃ t, exec i s = .next t ∧
      WritesPrefix s0 rs 64 t ∧
      t.bus = .oracle rest asked ∧ t.history = s.history ++ passEvents cmd s0 rs 64 ∧
      t.fault = s.fault ∧ t.faultInfo = s.faultInfo ∧ KeepsOutsideSearch s t ∧ KeepsShadows s t ∧
      (t.rom ≠ 0#64 →
        t.ld.toNat = highestZero s0 rs 64 ∧ t.ldf = (highestZero s0 rs 64 == 0) ∧
        t.lfd.toNat = familyZero s0 rs 64 ∧ t.result = ⟨true, false, false⟩ ∧ t.outcome = some .found) ∧
      (t.rom = 0#64 →
        SessionCleared t ∧ t.result = ⟨false, false, false⟩ ∧ t.outcome = some .zeroAddress)

/-- R118, R122, R124, R125: a pass that reads 1, 1 first at position `K`. Positions 1 to K-1 are written,
K to 64 keep bit and mask, nothing is written back at K, the session is cleared, RES = 0. -/
def Obligations.AbortedPassKeepsTheRestOfRom : Prop :=
  ∀ (i : Instr) (s s0 : State) (cmd : Byte) (rs : List Reading) (rest : List Bool) (asked : Question) (K : Nat),
    PassStart i s s0 cmd → s0.ldf = false → s.bus = .oracle (true :: (scriptOf rs ++ rest)) asked →
    1 ≤ K → K ≤ 64 → rs.length = K → SomebodyUpTo rs (K - 1) → nobodyAt rs K = true →
    ReplayReadable s0 rs (K - 1) →
    ∃ t, exec i s = .next t ∧
      WritesPrefix s0 rs (K - 1) t ∧
      t.bus = .oracle rest asked ∧
      t.history = s.history ++ passEvents cmd s0 rs (K - 1) ++ readEvents rs K ∧
      t.fault = s.fault ∧ t.faultInfo = s.faultInfo ∧ SessionCleared t ∧ t.result = ⟨false, false, false⟩ ∧
      t.outcome = some .aborted ∧ KeepsOutsideSearch s t ∧ KeepsShadows s t

/-- R119, R173, 43_verify.md R150: a replay of an unwritten bit at position `K` raises UnwrittenRead, in a
search command and in VERIFY's pass (R154 case 6). The state is as it stands at the raise: positions 1 to
K-1 written, LD and LDF as the pass started with them, LFD as the pass left it, RESULT not written, no
restore. PH at RCMP(K) is the model's deduction, log entry 6 (DEDUCED). -/
def Obligations.UnwrittenReplayHalts : Prop :=
  ∀ (i : Instr) (s s0 : State) (cmd : Byte) (rs : List Reading) (rest : List Bool) (asked : Question)
    (K : Nat),
    PassBegins i s s0 cmd → s0.ldf = false → s.bus = .oracle (true :: (scriptOf rs ++ rest)) asked →
    1 ≤ K → K ≤ 64 → rs.length = K → SomebodyUpTo rs K → ReplayReadable s0 rs (K - 1) →
    discrepancyAt rs K = true → K < s0.ld.toNat → romBit s0.romW K = false →
    ∃ t, exec i s = .next t ∧
      t.fault = .unwrittenRead ∧ t.faultInfo = .replay K ∧ t.ph = .rcmp K ∧
      WritesPrefix s0 rs (K - 1) t ∧
      t.ld = s0.ld ∧ t.ldf = false ∧ t.lfd.toNat = familyZero s0 rs (K - 1) ∧ t.result = s.result ∧
      t.bus = .oracle rest asked ∧
      t.history = s.history ++ passEvents cmd s0 rs (K - 1) ++ readEvents rs K ∧
      KeepsOutsideSearch s t ∧ KeepsShadows s0 t

/-- R113: the command byte changes nothing in the block: on the oracle two SEARCH commands differ in the
bus history alone. -/
def Obligations.SearchByteChangesNothingInTheBlock : Prop :=
  ∀ (s : State) (script : List Bool) (asked : Question) (c d : Nat), s.bus = .oracle script asked → c < 256 → d < 256 →
    ∃ t, exec (.search c) s = .next t ∧
      exec (.search d) s = .next { t with history := (afterExec (.search d) s).history }

/-- 60_exceptions.md R171: a pass of FIRST, NEXT, SEARCH or VERIFY that does not fault ends in exactly one
of the five outcomes, each with its cause, events, RES (for VERIFY: VFOUND) and session. VERIFY's inner pass
is never exhausted, and the session it ends with is restored. -/
def Obligations.PassEndsInOneOfFiveOutcomes : Prop :=
  (∀ (i : Instr) (s s0 t : State) (cmd : Byte), PassStart i s s0 cmd → s.fault = .none →
    exec i s = .next t → t.fault = .none →
    ∃ o events, t.history = s.history ++ events ∧ t.outcome = some o ∧
      t.result = ⟨o == .found, false, false⟩ ∧ PassEnd s0 t events o) ∧
  ∀ s t : State, s.fault = .none → exec .verify s = .next t → t.fault = .none →
    ∃ o u events,
      searchCore Config.searchCommand (anchorSession (saveSession { s with ph := .vsave })) = .value o u ∧
      t.history = s.history ++ events ∧ t.outcome = some o ∧ o ≠ .exhausted ∧
      t.result.vfound = (o == .found) ∧ PassEnd (anchorSession s) u events o ∧ KeepsSession s t

/-- R125, 70_reset_and_hazards.md R201: the number of bus events of every command on every bus. -/
def Obligations.CommandsIssueAtMost201Events : Prop :=
  ∀ (i : Instr) (s : State), i.WF → ∃ t events, exec i s = .next t ∧
    t.history = s.history ++ events ∧
    (runsPass i = false → events = []) ∧
    (i = .first ∨ i = .verify → events ≠ []) ∧
    (events.length = 0 ∨ events.length = 1 ∨ events.length = 201 ∨
      ∃ K, 1 ≤ K ∧ K ≤ 64 ∧ events.length = 3 * K + 8)

/-- R126, 92_eei_decisions.md D1, D22: stepping through the phases gives what the atomic command gives. The
whole-state equality takes in what is the model's own: the phases in which VERIFY anchors and compares, PH
after a fault (log entry 6, DEDUCED and DESIGN CHOICE) and the outcome (log entry 7, DESIGN CHOICE). -/
def Obligations.MicroStepsAgreeWithCommand : Prop :=
  ∀ (i : Instr) (s : State), i.WF → s.ph = .idle → isHalted s = false →
    exec i s = .next (microRun i maxMicroSteps s)

/-- R126: "Each phase issues at most one bus event". -/
def Obligations.EachPhaseIssuesAtMostOneEvent : Prop :=
  ∀ (i : Instr) (s : State), ∃ events,
    (microStep i s).history = s.history ++ events ∧ events.length ≤ 1

/-- R101: on the reference bus with a participant a pass never aborts and never faults: it ends holding
the ROM code of a device of P that takes part. -/
def Obligations.PassOnReferenceBusFindsADevice : Prop :=
  ∀ (i : Instr) (s s0 : State) (cmd : Byte) (b : RefBus), PassStart i s s0 cmd → s0.ldf = false →
    s.bus = .reference b → HasParticipant b cmd → WrittenBelow s0.romW s0.ld.toNat →
    ∃ t, exec i s = .next t ∧ t.fault = s.fault ∧
      t.rom ∈ b.devices ∧ Config.participates cmd t.rom = true ∧ t.romW = allWritten ∧
      BusOf b t.bus ∧
      (t.rom ≠ 0#64 → t.outcome = some .found ∧ t.result.res = true) ∧
      (t.rom = 0#64 → t.outcome = some .zeroAddress ∧ SessionCleared t)

/-- R123: ENUMERATE (FIRST, then repeated NEXT, R76) on the reference bus returns every device of P exactly
once, in strictly ascending traversal key, and then nothing, without bus activity (201 events a device and
no more). From a halted block it gets nothing (60_exceptions.md R173). -/
def Obligations.EnumerationIsAscendingTraversalKey : Prop :=
  (∀ (s : State) (b : RefBus), isHalted s = false → s.bus = .reference b → refBusWF b → b.devices ≠ [] →
    b.stuck = false → 0#64 ∉ b.devices →
    ∃ (found : List Rom) (t : State),
      enumerate (b.devices.length + 1) s = (found, .value () t) ∧
      found.Perm b.devices ∧
      (found.Pairwise fun x y => traversalKey x < traversalKey y) ∧
      t.ldf = true ∧ t.result = ⟨false, false, false⟩ ∧ t.fault = .none ∧
      t.history.length = s.history.length + 201 * b.devices.length) ∧
  ∀ (s : State) (n : Nat), isHalted s = true → enumerate n s = ([], .raised s)

/-! ### Family commands (spec/42_family.md) -/

/-- R140: TARGET_SETUP's whole effect, what ROM reads back as, and that every `fc` is legal. -/
def Obligations.TargetSetupSeedsTheSearch : Prop :=
  ∀ (fc : Byte) (s : State),
    encode (.targetSetup fc.toNat) = some ((fc ++ 0#4) ++ 0x4#4) ∧
    ∃ t, exec (.targetSetup fc.toNat) s = .next t ∧
      t = { s with rom := t.rom, romW := t.romW, ld := 64#7, lfd := 0#4, ldf := false } ∧
      romBytes t.rom = [fc, 0#8, 0#8, 0#8, 0#8, 0#8, 0#8, 0#8] ∧
      (∀ k, 1 ≤ k → k ≤ 64 → romBit t.romW k = true)

/-- R142: FAMILY_SKIP_SETUP's whole effect; it never clears LDF, ends the enumeration when LFD = 0, and
issued twice it sets LD = 0 and LDF = 1. -/
def Obligations.FamilySkipRewindsToLfd : Prop :=
  encode .familySkipSetup = some 0x0005#16 ∧
  ∀ s : State, ∃ t, exec .familySkipSetup s = .next t ∧
    t = { s with ld := t.ld, lfd := 0#4, ldf := t.ldf } ∧
    t.ld.toNat = s.lfd.toNat ∧ t.ldf = (s.ldf || s.lfd == 0#4) ∧
    exec .familySkipSetup t = .next { t with ld := 0#7, ldf := true }

/-- 70_reset_and_hazards.md R197: FIRST discards the positioning of the family commands. After
FAMILY_SKIP_SETUP it is FIRST; after TARGET_SETUP it gives the same bus events, session, RESULT and, when
it finds a device, the same ROM. -/
def Obligations.FirstDiscardsPositioning : Prop :=
  ∀ (s : State) (fc : Byte),
    exec .first (afterExec .familySkipSetup s) = exec .first s ∧
    ∃ t u, exec .first s = .next t ∧ exec .first (afterExec (.targetSetup fc.toNat) s) = .next u ∧
      u.history = t.history ∧ u.bus = t.bus ∧ u.result = t.result ∧
      u.ld = t.ld ∧ u.lfd = t.lfd ∧ u.ldf = t.ldf ∧ u.outcome = t.outcome ∧
      (t.outcome = some .found → u.rom = t.rom ∧ u.romW = t.romW)

/-- R141 case 1: after TARGET_SETUP `fc`, NEXT on the reference bus finds a device of family `fc` when one
is present. -/
def Obligations.TargetedSearchFindsPresentFamily : Prop :=
  ∀ (s : State) (fc : Byte) (b : RefBus), s.bus = .reference b → HasParticipant b Config.searchCommand →
    (∃ d ∈ b.devices, romByte d 0 = fc) →
    ∃ t, exec .next (afterExec (.targetSetup fc.toNat) s) = .next t ∧ t.fault = s.fault ∧
      t.rom ∈ b.devices ∧ romByte t.rom 0 = fc ∧ (t.rom ≠ 0#64 → t.result.res = true)

/-! ### VERIFY (spec/43_verify.md) -/

/-- R153: a VERIFY that does not fault leaves the session and its written-mask as they were, and CRC;
the shadows hold them and keep them through any other command; any later command behaves as if the VERIFY
had not run, for the same bus answers (RESULT is VERIFY's own). -/
def Obligations.VerifyRestoresTheSession : Prop :=
  ∀ s t : State, isHalted s = false → exec .verify s = .next t → isHalted t = false →
    KeepsSession s t ∧ KeepsOutsideSearch s t ∧ t.ph = .idle ∧
    (t.sRom = s.rom ∧ t.sRomW = s.romW ∧ t.sLd = s.ld ∧ t.sLfd = s.lfd ∧ t.sLdf = s.ldf) ∧
    (∀ (i : Instr) (u : State), i ≠ .verify → exec i t = .next u → KeepsShadows t u) ∧
    ∀ i : Instr, i.WF → ∃ u v, exec i t = .next u ∧
      exec i { s with ph := .idle, bus := t.bus, history := t.history, result := t.result } = .next v ∧
      Alike u v

/-- R152: VFOUND is the inner pass's `found`; VSAME is 1 exactly when the inner pass found a device and its
ROM equals the saved ROM; RES depends on VERIFY_GATED. The inner pass is the one of R151: LD = 64, LDF = 0,
SEARCH_COMMAND. VERIFY never faults with every ROM bit written, nor when its pass ends without a device
(R154 case 6). -/
def Obligations.VerifyReportsFoundAndSame : Prop :=
  ∀ s : State, isHalted s = false → ∃ t, exec .verify s = .next t ∧
    (s.romW = allWritten → isHalted t = false) ∧
    (∀ o u, searchCore Config.searchCommand (anchorSession (saveSession { s with ph := .vsave })) =
        .value o u → o ≠ .found →
      isHalted t = false ∧ t.result = ⟨false, false, false⟩) ∧
    (isHalted t = false → ∃ o u,
      searchCore Config.searchCommand (anchorSession (saveSession { s with ph := .vsave })) = .value o u ∧
      t.bus = u.bus ∧ t.history = u.history ∧ t.outcome = some o ∧
      (t.result.vfound = true ↔ o = .found) ∧
      (t.result.vsame = true ↔ o = .found ∧ romBytes u.rom = romBytes s.rom) ∧
      t.result.res =
        (if Config.verifyGated then t.result.vfound && t.result.vsame else t.result.vfound))

/-- R151: VERIFY on the reference bus. Stored device present: found, same, unless the stored address has 0
at position 64 and another device differs only there. Stored device absent, others present: found, not
the same. No device: not found. -/
def Obligations.VerifyOnReferenceBusTellsPresence : Prop :=
  ∀ (s : State) (b : RefBus), s.bus = .reference b → refBusWF b → b.stuck = false → 0#64 ∉ b.devices →
    s.romW = allWritten →
    ∃ t, exec .verify s = .next t ∧ t.fault = s.fault ∧ KeepsSession s t ∧
      (s.rom ∈ b.devices → (romBit s.rom 64 = true ∨ setRomBit s.rom 64 true ∉ b.devices) →
        t.result = ⟨true, true, true⟩) ∧
      (s.rom ∈ b.devices → romBit s.rom 64 = false → setRomBit s.rom 64 true ∈ b.devices →
        t.result.vfound = true ∧ t.result.vsame = false) ∧
      (b.devices ≠ [] → s.rom ∉ b.devices → t.result.vfound = true ∧ t.result.vsame = false) ∧
      (b.devices = [] → t.result = ⟨false, false, false⟩)

/-- R150, R154 case 6: VERIFY with an unwritten ROM bit on a pass that finds a device without a replay
fault: the compare raises UnwrittenRead after the whole pass, RESULT is not written and the restore does
not run. -/
def Obligations.VerifyCompareOfUnwrittenRomHalts : Prop :=
  ∀ (s : State) (rs : List Reading) (rest : List Bool) (asked : Question),
    let s0 := anchorSession s
    s.bus = .oracle (true :: (scriptOf rs ++ rest)) asked → rs.length = 64 →
    SomebodyUpTo rs 64 → ReplayReadable s0 rs 64 → (∃ k, 1 ≤ k ∧ k ≤ 64 ∧ ruleDirection s0 rs k = true) →
    s.romW ≠ allWritten →
    ∃ t, exec .verify s = .next t ∧ t.fault = .unwrittenRead ∧ t.faultInfo = .verify s.romW ∧
      WritesPrefix s0 rs 64 t ∧ t.ld.toNat = highestZero s0 rs 64 ∧ t.ldf = (highestZero s0 rs 64 == 0) ∧
      t.lfd.toNat = familyZero s0 rs 64 ∧ t.result = s.result ∧
      t.history = s.history ++ passEvents Config.searchCommand s0 rs 64 ∧ KeepsOutsideSearch s t

/-! ### CRC-8 (spec/44_crc8.md) -/

/-- R164: the step depends only on `c ^ b`, is linear, and T is a bijection with T(0) = 0, so it gives 0
exactly for `b = c`; the CRC over all 8 bytes of a ROM code is 0 exactly when the CRC over bytes 0 to 6 is
byte 7; the listed entries of T. -/
def Obligations.CrcTableAlgebra : Prop :=
  (∀ c b : Byte, crcStep c b = crcTable (c ^^^ b)) ∧
  (∀ x y : Byte, crcTable (x ^^^ y) = crcTable x ^^^ crcTable y) ∧
  crcTable.Bijective ∧ crcTable 0x00#8 = 0x00#8 ∧
  (∀ c b : Byte, crcStep c b = 0x00#8 ↔ b = c) ∧
  (∀ a : Rom, (romCodeValid a = true ↔ crc8 ((romBytes a).take 7) = romByte a 7) ∧
    (crc8 (romBytes a) = 0x00#8 ↔ crc8 ((romBytes a).take 7) = romByte a 7)) ∧
  (List.range 16).map (fun x => crcTable (BitVec.ofNat 8 x)) =
    [0x00#8, 0x5E#8, 0xBC#8, 0xE2#8, 0x61#8, 0x3F#8, 0xDD#8, 0x83#8, 0xC2#8, 0x9C#8, 0x7E#8, 0x20#8,
     0xA3#8, 0xFD#8, 0x1F#8, 0x41#8] ∧ crcTable 0x80#8 = 0x8C#8

/-- R161: CRC_UPDATE completes from every state with every byte and writes CRC alone, the remainder of
R160's step; it makes CRC 0 exactly for `b = CRC`; it is a bijection in each argument. -/
def Obligations.CrcUpdateWritesCrcAlone : Prop :=
  (∀ (b : Byte) (s : State),
    encode (.crcUpdate b.toNat) = some ((b ++ 0#4) ++ 0x8#4) ∧
    ∃ t, exec (.crcUpdate b.toNat) s = .next t ∧ t = { s with crc := crcStep s.crc b } ∧
      (t.crc = 0x00#8 ↔ b = s.crc)) ∧
  (∀ c : Byte, (crcStep c).Bijective) ∧ (∀ b : Byte, (fun c => crcStep c b).Bijective) ∧
  crcStep 0x00#8 0x28#8 = 0xE1#8

/-- R162: CRC_CLEAR writes CRC alone, completes from every state, is idempotent, and leaves the value
hardware reset leaves. -/
def Obligations.CrcClearWritesCrcAlone : Prop :=
  encode .crcClear = some 0x0007#16 ∧
  ∀ s : State, exec .crcClear s = .next { s with crc := 0x00#8 } ∧
    afterExec .crcClear (afterExec .crcClear s) = afterExec .crcClear s ∧
    (afterExec .crcClear s).crc = (hardwareReset s).crc

/-- R163: the command sequence CRC_CLEAR, CRC_UPDATE m0, … leaves CRC = crc8(m), and no other field
changed; crc8 folds CRC_STEP from 0. A halted block takes none of the commands (60_exceptions.md R173). -/
def Obligations.CrcCommandSequenceComputesCrc8 : Prop :=
  (crc8 [] = 0x00#8 ∧ ∀ (m : List Byte) (b : Byte), crc8 (m ++ [b]) = crcStep (crc8 m) b) ∧
  (∀ (m : List Byte) (s : State),
    (crc8Commands m).foldl (fun u i => afterExec i u) s = { s with crc := crc8 m }) ∧
  ∀ (m : List Byte) (s : State),
    (isHalted s = false → ∃ t, hostCommands (crc8Commands m) s = .value () t ∧
      t = { s with crc := crc8 m, answers := t.answers }) ∧
    (isHalted s = true → hostCommands (crc8Commands m) s = .raised s)

/-- R76, R164: CHECK_ROM_CRC in both forms, on a written ROM, says whether the ROM code is well formed, and
changes CRC alone of the block. At the first byte `k` with an unwritten bit the read halts the block, the
bytes before it fed. A halted block gives nothing (60_exceptions.md R173). -/
def Obligations.RomCrcCheckFormsAgree : Prop :=
  ∀ s : State,
    (isHalted s = false → s.romW = allWritten → ∃ t u,
      checkRomCrc s = .value (romCodeValid s.rom) t ∧ checkRomCrcAll s = .value (romCodeValid s.rom) u ∧
      t = { s with crc := crc8 ((romBytes s.rom).take 7), answers := t.answers } ∧
      u = { s with crc := crc8 (romBytes s.rom), answers := u.answers }) ∧
    (∀ k, isHalted s = false → k < 8 → romByte s.romW k ≠ 0xFF#8 →
      (∀ j, j < k → romByte s.romW j = 0xFF#8) → ∃ t u,
      checkRomCrc s = .raised t ∧ checkRomCrcAll s = .raised u ∧
      t = { s with
        crc := crc8 ((romBytes s.rom).take k), answers := t.answers
        fault := .unwrittenRead, faultInfo := .host (BitVec.ofNat 8 k) } ∧
      u = { t with answers := u.answers }) ∧
    (isHalted s = true → checkRomCrc s = .raised s ∧ checkRomCrcAll s = .raised s)

/-- R165, R27: no enumerator command reads or writes CRC: two states that differ in CRC alone run alike. -/
def Obligations.EnumeratorIgnoresCrc : Prop :=
  ∀ (i : Instr) (s : State) (c : Byte), i.WF → i.mnemonic ≠ .crcClear → i.mnemonic ≠ .crcUpdate →
    ∃ t, exec i s = .next t ∧ t.crc = s.crc ∧ exec i { s with crc := c } = .next { t with crc := c }

/-! ### Faults (spec/60_exceptions.md) and reset (spec/70_reset_and_hazards.md) -/

/-- R173, R174: a halted block accepts no command and answers no read; without a reset coming it is
stuck; a hardware reset ends the halt. That a command or read sent to it leaves the list, without effect, is
the model's choice: log entry 1 (DESIGN CHOICE). -/
def Obligations.HaltedBlockTakesNoStepUntilReset : Prop :=
  ∀ (s : State) (rest : List HostInput), isHalted s = true →
    (∀ w, s.inputs = .command w :: rest → step s = .next { s with inputs := rest }) ∧
    (∀ off, s.inputs = .read off :: rest → step s = .next { s with inputs := rest }) ∧
    (∀ b, s.inputs = .busChange b :: rest → step s = .next { s with inputs := rest, bus := b }) ∧
    (s.inputs = [] → step s = .fault (.halted s.fault)) ∧
    (s.inputs = .hardwareReset :: rest → ∃ t, step s = .next t ∧ isHalted t = false)

/-- R190, R191: hardware reset, from any state: the block's fields and the bus history at their reset
values, no bus event, the devices not reset. -/
def Obligations.HardwareResetFromAnyState : Prop :=
  ∀ (s : State) (rest : List HostInput), s.inputs = .hardwareReset :: rest →
    ∃ t, step s = .next t ∧
      t.ld = 0#7 ∧ t.lfd = 0#4 ∧ t.ldf = false ∧ t.crc = 0x00#8 ∧ t.result = ⟨false, false, false⟩ ∧
      t.romW = 0#64 ∧ t.ph = .idle ∧ t.fault = .none ∧ t.history = [] ∧
      t.bus = s.bus ∧ t.inputs = rest ∧ t.answers = s.answers

/-- 10_state.md R35: the values the spec states for reset. (The fields R35 leaves unspecified are the
model's own choice, log entry 2, and are not stated.) -/
def Obligations.ResetStateAsStated : Prop :=
  State.reset.romW = 0#64 ∧ State.reset.ld = 0#7 ∧ State.reset.lfd = 0#4 ∧ State.reset.ldf = false ∧
  State.reset.crc = 0x00#8 ∧ State.reset.result = ⟨false, false, false⟩ ∧ State.reset.ph = .idle ∧
  State.reset.fault = .none ∧ State.reset.history = [] ∧
  ∀ off : Byte, off.toNat ≤ 7 → regRead off State.reset = .error (.unwrittenRead, .host off)

/-- R190: "After reset it waits in IDLE for a command": with nothing coming, the block keeps its state
(log entry 1: a step that waits). -/
def Obligations.IdleBlockWaits : Prop :=
  ∀ s : State, s.inputs = [] → isHalted s = false → step s = .next s

/-! ### Whole-machine rules -/

/-- 20_memory.md R58: a step runs the command its word decodes to, whole; the host is unblocked unless the
command faulted (60_exceptions.md R177, R173). That the word leaves the list `inputs` and that `completed w`
is the form of the unblocking are the model's choice: log entry 1 (DESIGN CHOICE). -/
def Obligations.StepRunsTheDecodedCommand : Prop :=
  ∀ (s t : State) (w : Word) (i : Instr) (rest : List HostInput),
    isHalted s = false → s.inputs = .command w :: rest → decode w = .ok i →
    exec i { s with inputs := rest } = .next t →
    (isHalted t = false → step s = .next { t with answers := t.answers ++ [.completed w] }) ∧
    (isHalted t = true → step s = .next t)

/-- 10_state.md R26, 41_search.md R112: the invariant holds at reset. -/
def Obligations.ResetStateIsSound : Prop := Sound State.reset

/-- 10_state.md R26 (ranges), R32 (PH), 41_search.md R112 and 42_family.md R142 (a replay reads written
bits), 43_verify.md R152, 60_exceptions.md R172: every step of every input keeps the invariant. -/
def Obligations.StepKeepsSound : Prop :=
  ∀ s t : State, Sound s → step s = .next t → Sound t

/-- 10_state.md R26, exhaustion: while LDF = 1 only RESET_SEARCH, FIRST or TARGET_SETUP set it back to 0
(a faulted VERIFY, whose restore does not run, is left aside), and a pass started then finds nothing. -/
def Obligations.ExhaustionEndsOnlyByThreeCommands : Prop :=
  ∀ (i : Instr) (s t : State), s.ldf = true → isHalted s = false → exec i s = .next t →
    isHalted t = false →
    (t.ldf = false → i.mnemonic = .resetSearch ∨ i.mnemonic = .first ∨ i.mnemonic = .targetSetup) ∧
    (i.mnemonic = .next ∨ i.mnemonic = .search → t.result.res = false)

/-- 10_state.md R22: nothing clears a bit of ROM_W except hardware reset; a VERIFY restores the mask it
saved. -/
def Obligations.WrittenBitsStayWritten : Prop :=
  ∀ (i : Instr) (s t : State), exec i s = .next t →
    (∀ k, 1 ≤ k → k ≤ 64 → romBit s.romW k = true → romBit t.romW k = true) ∧
    (i.mnemonic = .resetSearch ∨ i.mnemonic = .familySkipSetup ∨ i.mnemonic = .crcClear ∨
      i.mnemonic = .crcUpdate → t.rom = s.rom ∧ t.romW = s.romW)

/-- 60_exceptions.md R172: of the commands only a pass of NEXT, SEARCH or VERIFY faults, only with
UnwrittenRead, and with every ROM bit written none does. -/
def Obligations.CommandsFaultOnlyOnUnwrittenBits : Prop :=
  ∀ (i : Instr) (s t : State), isHalted s = false → exec i s = .next t →
    (isHalted t = true → t.fault = .unwrittenRead ∧ t.result = s.result ∧
      (i.mnemonic = .next ∨ i.mnemonic = .search ∨ i.mnemonic = .verify)) ∧
    (s.romW = allWritten → isHalted t = false)

/-- 10_state.md R29 to R31, R35; 93_implementation_defined.md U5, U6: no step reads a transient, a shadow,
FAULT_INFO or an unwritten ROM bit it has not written: states that differ only there stay so. -/
def Obligations.UnspecifiedFieldsNeverMatter : Prop :=
  ∀ s s' t : State, Alike s s' → step s = .next t → ∃ t', step s' = .next t' ∧ Alike t t'

/-- 20_memory.md R52, R53, 60_exceptions.md R173: a read at the read port (log entry 1) answers what the map
gives, or raises its fault without an answer, and writes no register; a halted block answers none. -/
def Obligations.HostReadsWriteNoRegister : Prop :=
  ∀ (s : State) (off : Byte) (rest : List HostInput), s.inputs = .read off :: rest →
    (isHalted s = true → step s = .next { s with inputs := rest }) ∧
    (isHalted s = false → ∀ v, regRead off s = .ok v →
      step s = .next { s with inputs := rest, answers := s.answers ++ [.data off v] }) ∧
    (isHalted s = false → ∀ code info, regRead off s = .error (code, info) →
      code ≠ .none ∧ step s = .next { s with inputs := rest, fault := code, faultInfo := info })

/-- 60_exceptions.md R180, 20_memory.md R61: a step of one instance leaves every other as it was. -/
def Obligations.InstancesAreIndependent : Prop :=
  ∀ (y z : System) (n : Fin y.blocks.length), systemStep y n = .next z →
    z.blocks.length = y.blocks.length ∧
    (∃ t, step y.blocks[n] = .next t ∧ z.blocks[n.val]? = some t) ∧
    ∀ m : Nat, m ≠ n.val → z.blocks[m]? = y.blocks[m]?

/-- 30_encoding.md R77: an immediate outside 0..255 has no encoding. That the meaning (`exec`) refuses it by
name is the model's choice: log entry 10 (DESIGN CHOICE). -/
def Obligations.UnencodableImmediateIsRefused : Prop :=
  ∀ (n : Nat) (s : State), 256 ≤ n →
    encode (.search n) = none ∧ encode (.targetSetup n) = none ∧ encode (.crcUpdate n) = none ∧
    exec (.search n) s = .refused (.immediateOutOfRange n) ∧
    exec (.targetSetup n) s = .refused (.immediateOutOfRange n) ∧
    exec (.crcUpdate n) s = .refused (.immediateOutOfRange n)
end

