-- ==== Sys2Proof/Laws/Bits.lean ====
section
/-!
SUPPORT. Reading and writing one search position of a 64-bit word (spec/00_scope.md R6).
-/

namespace Sys2Proof.Machine

theorem romBit_setRomBit_self (a : Rom) (k : Nat) (d : Bool) (h1 : 1 ≤ k) (h64 : k ≤ 64) :
    romBit (setRomBit a k d) k = d := by
  have hk : k - 1 < 64 := by omega
  cases d <;> simp [romBit, setRomBit, positionMask, hk]

theorem romBit_setRomBit_other (a : Rom) (k j : Nat) (d : Bool) (hk : 1 ≤ k) (hj : 1 ≤ j) (h : j ≠ k) :
    romBit (setRomBit a k d) j = romBit a j := by
  by_cases hj64 : j - 1 < 64
  · cases d <;> by_cases hlt : j - 1 < k - 1 <;>
      simp [romBit, setRomBit, positionMask, hlt, hj64]
    all_goals
      intros
      omega
  · have : ∀ b : Rom, b.getLsbD (j - 1) = false := fun b => BitVec.getLsbD_of_ge _ _ (by omega)
    simp [romBit, this]

/-- A ROM code is determined by its 64 search positions. -/
theorem rom_ext (a b : Rom) (h : ∀ k, 1 ≤ k → k ≤ 64 → romBit a k = romBit b k) : a = b := by
  apply BitVec.eq_of_getLsbD_eq
  intro i hi
  simpa [romBit] using h (i + 1) (by omega) (by omega)

theorem romBit_allWritten (k : Nat) (h1 : 1 ≤ k) (h64 : k ≤ 64) : romBit allWritten k = true := by
  have hk : k - 1 < 64 := by omega
  rw [romBit, allWritten, BitVec.getLsbD_allOnes]
  exact decide_eq_true hk

/-- A mask with every position written is `allWritten`. -/
theorem eq_allWritten (m : Rom) (h : ∀ k, 1 ≤ k → k ≤ 64 → romBit m k = true) : m = allWritten :=
  rom_ext _ _ fun k h1 h64 => by rw [h k h1 h64, romBit_allWritten k h1 h64]

end Sys2Proof.Machine
end

