-- ==== Sys2Proof/Laws/State.lean ====
section
/-!
SUPPORT. One lemma per field per shared update of State, each true by rfl, so that no later proof unfolds
a record update. `busReset` and `busReadBit` answer a pair: their lemmas are about its second part.
-/

namespace Sys2Proof.Machine

section
variable (s : State)

@[simp] theorem raiseFault_rom (code : FaultCode) (info : FaultInfo) : (raiseFault code info s).rom = s.rom := rfl
@[simp] theorem raiseFault_romW (code : FaultCode) (info : FaultInfo) : (raiseFault code info s).romW = s.romW := rfl
@[simp] theorem raiseFault_ld (code : FaultCode) (info : FaultInfo) : (raiseFault code info s).ld = s.ld := rfl
@[simp] theorem raiseFault_lfd (code : FaultCode) (info : FaultInfo) : (raiseFault code info s).lfd = s.lfd := rfl
@[simp] theorem raiseFault_ldf (code : FaultCode) (info : FaultInfo) : (raiseFault code info s).ldf = s.ldf := rfl
@[simp] theorem raiseFault_crc (code : FaultCode) (info : FaultInfo) : (raiseFault code info s).crc = s.crc := rfl
@[simp] theorem raiseFault_result (code : FaultCode) (info : FaultInfo) : (raiseFault code info s).result = s.result := rfl
@[simp] theorem raiseFault_lz (code : FaultCode) (info : FaultInfo) : (raiseFault code info s).lz = s.lz := rfl
@[simp] theorem raiseFault_k (code : FaultCode) (info : FaultInfo) : (raiseFault code info s).k = s.k := rfl
@[simp] theorem raiseFault_idb (code : FaultCode) (info : FaultInfo) : (raiseFault code info s).idb = s.idb := rfl
@[simp] theorem raiseFault_cmpb (code : FaultCode) (info : FaultInfo) : (raiseFault code info s).cmpb = s.cmpb := rfl
@[simp] theorem raiseFault_dir (code : FaultCode) (info : FaultInfo) : (raiseFault code info s).dir = s.dir := rfl
@[simp] theorem raiseFault_ok (code : FaultCode) (info : FaultInfo) : (raiseFault code info s).ok = s.ok := rfl
@[simp] theorem raiseFault_sRom (code : FaultCode) (info : FaultInfo) : (raiseFault code info s).sRom = s.sRom := rfl
@[simp] theorem raiseFault_sRomW (code : FaultCode) (info : FaultInfo) : (raiseFault code info s).sRomW = s.sRomW := rfl
@[simp] theorem raiseFault_sLd (code : FaultCode) (info : FaultInfo) : (raiseFault code info s).sLd = s.sLd := rfl
@[simp] theorem raiseFault_sLfd (code : FaultCode) (info : FaultInfo) : (raiseFault code info s).sLfd = s.sLfd := rfl
@[simp] theorem raiseFault_sLdf (code : FaultCode) (info : FaultInfo) : (raiseFault code info s).sLdf = s.sLdf := rfl
@[simp] theorem raiseFault_ph (code : FaultCode) (info : FaultInfo) : (raiseFault code info s).ph = s.ph := rfl
@[simp] theorem raiseFault_fault (code : FaultCode) (info : FaultInfo) : (raiseFault code info s).fault = code := rfl
@[simp] theorem raiseFault_faultInfo (code : FaultCode) (info : FaultInfo) : (raiseFault code info s).faultInfo = info := rfl
@[simp] theorem raiseFault_history (code : FaultCode) (info : FaultInfo) : (raiseFault code info s).history = s.history := rfl
@[simp] theorem raiseFault_outcome (code : FaultCode) (info : FaultInfo) : (raiseFault code info s).outcome = s.outcome := rfl
@[simp] theorem raiseFault_bus (code : FaultCode) (info : FaultInfo) : (raiseFault code info s).bus = s.bus := rfl
@[simp] theorem raiseFault_inputs (code : FaultCode) (info : FaultInfo) : (raiseFault code info s).inputs = s.inputs := rfl
@[simp] theorem raiseFault_answers (code : FaultCode) (info : FaultInfo) : (raiseFault code info s).answers = s.answers := rfl

@[simp] theorem clearSession_rom : (clearSession s).rom = s.rom := rfl
@[simp] theorem clearSession_romW : (clearSession s).romW = s.romW := rfl
@[simp] theorem clearSession_ld : (clearSession s).ld = 0#7 := rfl
@[simp] theorem clearSession_lfd : (clearSession s).lfd = 0#4 := rfl
@[simp] theorem clearSession_ldf : (clearSession s).ldf = false := rfl
@[simp] theorem clearSession_crc : (clearSession s).crc = s.crc := rfl
@[simp] theorem clearSession_result : (clearSession s).result = s.result := rfl
@[simp] theorem clearSession_lz : (clearSession s).lz = s.lz := rfl
@[simp] theorem clearSession_k : (clearSession s).k = s.k := rfl
@[simp] theorem clearSession_idb : (clearSession s).idb = s.idb := rfl
@[simp] theorem clearSession_cmpb : (clearSession s).cmpb = s.cmpb := rfl
@[simp] theorem clearSession_dir : (clearSession s).dir = s.dir := rfl
@[simp] theorem clearSession_ok : (clearSession s).ok = s.ok := rfl
@[simp] theorem clearSession_sRom : (clearSession s).sRom = s.sRom := rfl
@[simp] theorem clearSession_sRomW : (clearSession s).sRomW = s.sRomW := rfl
@[simp] theorem clearSession_sLd : (clearSession s).sLd = s.sLd := rfl
@[simp] theorem clearSession_sLfd : (clearSession s).sLfd = s.sLfd := rfl
@[simp] theorem clearSession_sLdf : (clearSession s).sLdf = s.sLdf := rfl
@[simp] theorem clearSession_ph : (clearSession s).ph = s.ph := rfl
@[simp] theorem clearSession_fault : (clearSession s).fault = s.fault := rfl
@[simp] theorem clearSession_faultInfo : (clearSession s).faultInfo = s.faultInfo := rfl
@[simp] theorem clearSession_history : (clearSession s).history = s.history := rfl
@[simp] theorem clearSession_outcome : (clearSession s).outcome = s.outcome := rfl
@[simp] theorem clearSession_bus : (clearSession s).bus = s.bus := rfl
@[simp] theorem clearSession_inputs : (clearSession s).inputs = s.inputs := rfl
@[simp] theorem clearSession_answers : (clearSession s).answers = s.answers := rfl

@[simp] theorem completePass_rom : (completePass s).rom = s.rom := rfl
@[simp] theorem completePass_romW : (completePass s).romW = s.romW := rfl
@[simp] theorem completePass_ld : (completePass s).ld = s.lz := rfl
@[simp] theorem completePass_lfd : (completePass s).lfd = s.lfd := rfl
@[simp] theorem completePass_ldf : (completePass s).ldf = if s.lz = 0#7 then true else s.ldf := rfl
@[simp] theorem completePass_crc : (completePass s).crc = s.crc := rfl
@[simp] theorem completePass_result : (completePass s).result = s.result := rfl
@[simp] theorem completePass_lz : (completePass s).lz = s.lz := rfl
@[simp] theorem completePass_k : (completePass s).k = s.k := rfl
@[simp] theorem completePass_idb : (completePass s).idb = s.idb := rfl
@[simp] theorem completePass_cmpb : (completePass s).cmpb = s.cmpb := rfl
@[simp] theorem completePass_dir : (completePass s).dir = s.dir := rfl
@[simp] theorem completePass_ok : (completePass s).ok = s.ok := rfl
@[simp] theorem completePass_sRom : (completePass s).sRom = s.sRom := rfl
@[simp] theorem completePass_sRomW : (completePass s).sRomW = s.sRomW := rfl
@[simp] theorem completePass_sLd : (completePass s).sLd = s.sLd := rfl
@[simp] theorem completePass_sLfd : (completePass s).sLfd = s.sLfd := rfl
@[simp] theorem completePass_sLdf : (completePass s).sLdf = s.sLdf := rfl
@[simp] theorem completePass_ph : (completePass s).ph = s.ph := rfl
@[simp] theorem completePass_fault : (completePass s).fault = s.fault := rfl
@[simp] theorem completePass_faultInfo : (completePass s).faultInfo = s.faultInfo := rfl
@[simp] theorem completePass_history : (completePass s).history = s.history := rfl
@[simp] theorem completePass_outcome : (completePass s).outcome = s.outcome := rfl
@[simp] theorem completePass_bus : (completePass s).bus = s.bus := rfl
@[simp] theorem completePass_inputs : (completePass s).inputs = s.inputs := rfl
@[simp] theorem completePass_answers : (completePass s).answers = s.answers := rfl

@[simp] theorem noteZero_rom (K : Nat) : (noteZero K s).rom = s.rom := rfl
@[simp] theorem noteZero_romW (K : Nat) : (noteZero K s).romW = s.romW := rfl
@[simp] theorem noteZero_ld (K : Nat) : (noteZero K s).ld = s.ld := rfl
@[simp] theorem noteZero_lfd (K : Nat) : (noteZero K s).lfd = if K ≤ 8 then BitVec.ofNat 4 K else s.lfd := rfl
@[simp] theorem noteZero_ldf (K : Nat) : (noteZero K s).ldf = s.ldf := rfl
@[simp] theorem noteZero_crc (K : Nat) : (noteZero K s).crc = s.crc := rfl
@[simp] theorem noteZero_result (K : Nat) : (noteZero K s).result = s.result := rfl
@[simp] theorem noteZero_lz (K : Nat) : (noteZero K s).lz = BitVec.ofNat 7 K := rfl
@[simp] theorem noteZero_k (K : Nat) : (noteZero K s).k = s.k := rfl
@[simp] theorem noteZero_idb (K : Nat) : (noteZero K s).idb = s.idb := rfl
@[simp] theorem noteZero_cmpb (K : Nat) : (noteZero K s).cmpb = s.cmpb := rfl
@[simp] theorem noteZero_dir (K : Nat) : (noteZero K s).dir = s.dir := rfl
@[simp] theorem noteZero_ok (K : Nat) : (noteZero K s).ok = s.ok := rfl
@[simp] theorem noteZero_sRom (K : Nat) : (noteZero K s).sRom = s.sRom := rfl
@[simp] theorem noteZero_sRomW (K : Nat) : (noteZero K s).sRomW = s.sRomW := rfl
@[simp] theorem noteZero_sLd (K : Nat) : (noteZero K s).sLd = s.sLd := rfl
@[simp] theorem noteZero_sLfd (K : Nat) : (noteZero K s).sLfd = s.sLfd := rfl
@[simp] theorem noteZero_sLdf (K : Nat) : (noteZero K s).sLdf = s.sLdf := rfl
@[simp] theorem noteZero_ph (K : Nat) : (noteZero K s).ph = s.ph := rfl
@[simp] theorem noteZero_fault (K : Nat) : (noteZero K s).fault = s.fault := rfl
@[simp] theorem noteZero_faultInfo (K : Nat) : (noteZero K s).faultInfo = s.faultInfo := rfl
@[simp] theorem noteZero_history (K : Nat) : (noteZero K s).history = s.history := rfl
@[simp] theorem noteZero_outcome (K : Nat) : (noteZero K s).outcome = s.outcome := rfl
@[simp] theorem noteZero_bus (K : Nat) : (noteZero K s).bus = s.bus := rfl
@[simp] theorem noteZero_inputs (K : Nat) : (noteZero K s).inputs = s.inputs := rfl
@[simp] theorem noteZero_answers (K : Nat) : (noteZero K s).answers = s.answers := rfl

@[simp] theorem saveSession_rom : (saveSession s).rom = s.rom := rfl
@[simp] theorem saveSession_romW : (saveSession s).romW = s.romW := rfl
@[simp] theorem saveSession_ld : (saveSession s).ld = s.ld := rfl
@[simp] theorem saveSession_lfd : (saveSession s).lfd = s.lfd := rfl
@[simp] theorem saveSession_ldf : (saveSession s).ldf = s.ldf := rfl
@[simp] theorem saveSession_crc : (saveSession s).crc = s.crc := rfl
@[simp] theorem saveSession_result : (saveSession s).result = s.result := rfl
@[simp] theorem saveSession_lz : (saveSession s).lz = s.lz := rfl
@[simp] theorem saveSession_k : (saveSession s).k = s.k := rfl
@[simp] theorem saveSession_idb : (saveSession s).idb = s.idb := rfl
@[simp] theorem saveSession_cmpb : (saveSession s).cmpb = s.cmpb := rfl
@[simp] theorem saveSession_dir : (saveSession s).dir = s.dir := rfl
@[simp] theorem saveSession_ok : (saveSession s).ok = s.ok := rfl
@[simp] theorem saveSession_sRom : (saveSession s).sRom = s.rom := rfl
@[simp] theorem saveSession_sRomW : (saveSession s).sRomW = s.romW := rfl
@[simp] theorem saveSession_sLd : (saveSession s).sLd = s.ld := rfl
@[simp] theorem saveSession_sLfd : (saveSession s).sLfd = s.lfd := rfl
@[simp] theorem saveSession_sLdf : (saveSession s).sLdf = s.ldf := rfl
@[simp] theorem saveSession_ph : (saveSession s).ph = s.ph := rfl
@[simp] theorem saveSession_fault : (saveSession s).fault = s.fault := rfl
@[simp] theorem saveSession_faultInfo : (saveSession s).faultInfo = s.faultInfo := rfl
@[simp] theorem saveSession_history : (saveSession s).history = s.history := rfl
@[simp] theorem saveSession_outcome : (saveSession s).outcome = s.outcome := rfl
@[simp] theorem saveSession_bus : (saveSession s).bus = s.bus := rfl
@[simp] theorem saveSession_inputs : (saveSession s).inputs = s.inputs := rfl
@[simp] theorem saveSession_answers : (saveSession s).answers = s.answers := rfl

@[simp] theorem anchorSession_rom : (anchorSession s).rom = s.rom := rfl
@[simp] theorem anchorSession_romW : (anchorSession s).romW = s.romW := rfl
@[simp] theorem anchorSession_ld : (anchorSession s).ld = 64#7 := rfl
@[simp] theorem anchorSession_lfd : (anchorSession s).lfd = s.lfd := rfl
@[simp] theorem anchorSession_ldf : (anchorSession s).ldf = false := rfl
@[simp] theorem anchorSession_crc : (anchorSession s).crc = s.crc := rfl
@[simp] theorem anchorSession_result : (anchorSession s).result = s.result := rfl
@[simp] theorem anchorSession_lz : (anchorSession s).lz = s.lz := rfl
@[simp] theorem anchorSession_k : (anchorSession s).k = s.k := rfl
@[simp] theorem anchorSession_idb : (anchorSession s).idb = s.idb := rfl
@[simp] theorem anchorSession_cmpb : (anchorSession s).cmpb = s.cmpb := rfl
@[simp] theorem anchorSession_dir : (anchorSession s).dir = s.dir := rfl
@[simp] theorem anchorSession_ok : (anchorSession s).ok = s.ok := rfl
@[simp] theorem anchorSession_sRom : (anchorSession s).sRom = s.sRom := rfl
@[simp] theorem anchorSession_sRomW : (anchorSession s).sRomW = s.sRomW := rfl
@[simp] theorem anchorSession_sLd : (anchorSession s).sLd = s.sLd := rfl
@[simp] theorem anchorSession_sLfd : (anchorSession s).sLfd = s.sLfd := rfl
@[simp] theorem anchorSession_sLdf : (anchorSession s).sLdf = s.sLdf := rfl
@[simp] theorem anchorSession_ph : (anchorSession s).ph = s.ph := rfl
@[simp] theorem anchorSession_fault : (anchorSession s).fault = s.fault := rfl
@[simp] theorem anchorSession_faultInfo : (anchorSession s).faultInfo = s.faultInfo := rfl
@[simp] theorem anchorSession_history : (anchorSession s).history = s.history := rfl
@[simp] theorem anchorSession_outcome : (anchorSession s).outcome = s.outcome := rfl
@[simp] theorem anchorSession_bus : (anchorSession s).bus = s.bus := rfl
@[simp] theorem anchorSession_inputs : (anchorSession s).inputs = s.inputs := rfl
@[simp] theorem anchorSession_answers : (anchorSession s).answers = s.answers := rfl

@[simp] theorem restoreSession_rom : (restoreSession s).rom = s.sRom := rfl
@[simp] theorem restoreSession_romW : (restoreSession s).romW = s.sRomW := rfl
@[simp] theorem restoreSession_ld : (restoreSession s).ld = s.sLd := rfl
@[simp] theorem restoreSession_lfd : (restoreSession s).lfd = s.sLfd := rfl
@[simp] theorem restoreSession_ldf : (restoreSession s).ldf = s.sLdf := rfl
@[simp] theorem restoreSession_crc : (restoreSession s).crc = s.crc := rfl
@[simp] theorem restoreSession_result : (restoreSession s).result = s.result := rfl
@[simp] theorem restoreSession_lz : (restoreSession s).lz = s.lz := rfl
@[simp] theorem restoreSession_k : (restoreSession s).k = s.k := rfl
@[simp] theorem restoreSession_idb : (restoreSession s).idb = s.idb := rfl
@[simp] theorem restoreSession_cmpb : (restoreSession s).cmpb = s.cmpb := rfl
@[simp] theorem restoreSession_dir : (restoreSession s).dir = s.dir := rfl
@[simp] theorem restoreSession_ok : (restoreSession s).ok = s.ok := rfl
@[simp] theorem restoreSession_sRom : (restoreSession s).sRom = s.sRom := rfl
@[simp] theorem restoreSession_sRomW : (restoreSession s).sRomW = s.sRomW := rfl
@[simp] theorem restoreSession_sLd : (restoreSession s).sLd = s.sLd := rfl
@[simp] theorem restoreSession_sLfd : (restoreSession s).sLfd = s.sLfd := rfl
@[simp] theorem restoreSession_sLdf : (restoreSession s).sLdf = s.sLdf := rfl
@[simp] theorem restoreSession_ph : (restoreSession s).ph = s.ph := rfl
@[simp] theorem restoreSession_fault : (restoreSession s).fault = s.fault := rfl
@[simp] theorem restoreSession_faultInfo : (restoreSession s).faultInfo = s.faultInfo := rfl
@[simp] theorem restoreSession_history : (restoreSession s).history = s.history := rfl
@[simp] theorem restoreSession_outcome : (restoreSession s).outcome = s.outcome := rfl
@[simp] theorem restoreSession_bus : (restoreSession s).bus = s.bus := rfl
@[simp] theorem restoreSession_inputs : (restoreSession s).inputs = s.inputs := rfl
@[simp] theorem restoreSession_answers : (restoreSession s).answers = s.answers := rfl

@[simp] theorem busWriteBit_rom (v : Bool) : (busWriteBit v s).rom = s.rom := rfl
@[simp] theorem busWriteBit_romW (v : Bool) : (busWriteBit v s).romW = s.romW := rfl
@[simp] theorem busWriteBit_ld (v : Bool) : (busWriteBit v s).ld = s.ld := rfl
@[simp] theorem busWriteBit_lfd (v : Bool) : (busWriteBit v s).lfd = s.lfd := rfl
@[simp] theorem busWriteBit_ldf (v : Bool) : (busWriteBit v s).ldf = s.ldf := rfl
@[simp] theorem busWriteBit_crc (v : Bool) : (busWriteBit v s).crc = s.crc := rfl
@[simp] theorem busWriteBit_result (v : Bool) : (busWriteBit v s).result = s.result := rfl
@[simp] theorem busWriteBit_lz (v : Bool) : (busWriteBit v s).lz = s.lz := rfl
@[simp] theorem busWriteBit_k (v : Bool) : (busWriteBit v s).k = s.k := rfl
@[simp] theorem busWriteBit_idb (v : Bool) : (busWriteBit v s).idb = s.idb := rfl
@[simp] theorem busWriteBit_cmpb (v : Bool) : (busWriteBit v s).cmpb = s.cmpb := rfl
@[simp] theorem busWriteBit_dir (v : Bool) : (busWriteBit v s).dir = s.dir := rfl
@[simp] theorem busWriteBit_ok (v : Bool) : (busWriteBit v s).ok = s.ok := rfl
@[simp] theorem busWriteBit_sRom (v : Bool) : (busWriteBit v s).sRom = s.sRom := rfl
@[simp] theorem busWriteBit_sRomW (v : Bool) : (busWriteBit v s).sRomW = s.sRomW := rfl
@[simp] theorem busWriteBit_sLd (v : Bool) : (busWriteBit v s).sLd = s.sLd := rfl
@[simp] theorem busWriteBit_sLfd (v : Bool) : (busWriteBit v s).sLfd = s.sLfd := rfl
@[simp] theorem busWriteBit_sLdf (v : Bool) : (busWriteBit v s).sLdf = s.sLdf := rfl
@[simp] theorem busWriteBit_ph (v : Bool) : (busWriteBit v s).ph = s.ph := rfl
@[simp] theorem busWriteBit_fault (v : Bool) : (busWriteBit v s).fault = s.fault := rfl
@[simp] theorem busWriteBit_faultInfo (v : Bool) : (busWriteBit v s).faultInfo = s.faultInfo := rfl
@[simp] theorem busWriteBit_history (v : Bool) : (busWriteBit v s).history = s.history ++ [.w v] := rfl
@[simp] theorem busWriteBit_outcome (v : Bool) : (busWriteBit v s).outcome = s.outcome := rfl
@[simp] theorem busWriteBit_bus (v : Bool) : (busWriteBit v s).bus = onWrite v s.bus := rfl
@[simp] theorem busWriteBit_inputs (v : Bool) : (busWriteBit v s).inputs = s.inputs := rfl
@[simp] theorem busWriteBit_answers (v : Bool) : (busWriteBit v s).answers = s.answers := rfl

@[simp] theorem busReset_answer : (busReset s).1 = (onReset s.bus).1 := rfl
@[simp] theorem busReset_rom : (busReset s).2.rom = s.rom := rfl
@[simp] theorem busReset_romW : (busReset s).2.romW = s.romW := rfl
@[simp] theorem busReset_ld : (busReset s).2.ld = s.ld := rfl
@[simp] theorem busReset_lfd : (busReset s).2.lfd = s.lfd := rfl
@[simp] theorem busReset_ldf : (busReset s).2.ldf = s.ldf := rfl
@[simp] theorem busReset_crc : (busReset s).2.crc = s.crc := rfl
@[simp] theorem busReset_result : (busReset s).2.result = s.result := rfl
@[simp] theorem busReset_lz : (busReset s).2.lz = s.lz := rfl
@[simp] theorem busReset_k : (busReset s).2.k = s.k := rfl
@[simp] theorem busReset_idb : (busReset s).2.idb = s.idb := rfl
@[simp] theorem busReset_cmpb : (busReset s).2.cmpb = s.cmpb := rfl
@[simp] theorem busReset_dir : (busReset s).2.dir = s.dir := rfl
@[simp] theorem busReset_ok : (busReset s).2.ok = s.ok := rfl
@[simp] theorem busReset_sRom : (busReset s).2.sRom = s.sRom := rfl
@[simp] theorem busReset_sRomW : (busReset s).2.sRomW = s.sRomW := rfl
@[simp] theorem busReset_sLd : (busReset s).2.sLd = s.sLd := rfl
@[simp] theorem busReset_sLfd : (busReset s).2.sLfd = s.sLfd := rfl
@[simp] theorem busReset_sLdf : (busReset s).2.sLdf = s.sLdf := rfl
@[simp] theorem busReset_ph : (busReset s).2.ph = s.ph := rfl
@[simp] theorem busReset_fault : (busReset s).2.fault = s.fault := rfl
@[simp] theorem busReset_faultInfo : (busReset s).2.faultInfo = s.faultInfo := rfl
@[simp] theorem busReset_history : (busReset s).2.history = s.history ++ [.rst (onReset s.bus).1] := rfl
@[simp] theorem busReset_outcome : (busReset s).2.outcome = s.outcome := rfl
@[simp] theorem busReset_bus : (busReset s).2.bus = (onReset s.bus).2 := rfl
@[simp] theorem busReset_inputs : (busReset s).2.inputs = s.inputs := rfl
@[simp] theorem busReset_answers : (busReset s).2.answers = s.answers := rfl

@[simp] theorem busReadBit_answer : (busReadBit s).1 = (onRead s.bus).1 := rfl
@[simp] theorem busReadBit_rom : (busReadBit s).2.rom = s.rom := rfl
@[simp] theorem busReadBit_romW : (busReadBit s).2.romW = s.romW := rfl
@[simp] theorem busReadBit_ld : (busReadBit s).2.ld = s.ld := rfl
@[simp] theorem busReadBit_lfd : (busReadBit s).2.lfd = s.lfd := rfl
@[simp] theorem busReadBit_ldf : (busReadBit s).2.ldf = s.ldf := rfl
@[simp] theorem busReadBit_crc : (busReadBit s).2.crc = s.crc := rfl
@[simp] theorem busReadBit_result : (busReadBit s).2.result = s.result := rfl
@[simp] theorem busReadBit_lz : (busReadBit s).2.lz = s.lz := rfl
@[simp] theorem busReadBit_k : (busReadBit s).2.k = s.k := rfl
@[simp] theorem busReadBit_idb : (busReadBit s).2.idb = s.idb := rfl
@[simp] theorem busReadBit_cmpb : (busReadBit s).2.cmpb = s.cmpb := rfl
@[simp] theorem busReadBit_dir : (busReadBit s).2.dir = s.dir := rfl
@[simp] theorem busReadBit_ok : (busReadBit s).2.ok = s.ok := rfl
@[simp] theorem busReadBit_sRom : (busReadBit s).2.sRom = s.sRom := rfl
@[simp] theorem busReadBit_sRomW : (busReadBit s).2.sRomW = s.sRomW := rfl
@[simp] theorem busReadBit_sLd : (busReadBit s).2.sLd = s.sLd := rfl
@[simp] theorem busReadBit_sLfd : (busReadBit s).2.sLfd = s.sLfd := rfl
@[simp] theorem busReadBit_sLdf : (busReadBit s).2.sLdf = s.sLdf := rfl
@[simp] theorem busReadBit_ph : (busReadBit s).2.ph = s.ph := rfl
@[simp] theorem busReadBit_fault : (busReadBit s).2.fault = s.fault := rfl
@[simp] theorem busReadBit_faultInfo : (busReadBit s).2.faultInfo = s.faultInfo := rfl
@[simp] theorem busReadBit_history : (busReadBit s).2.history = s.history ++ [.r (onRead s.bus).1] := rfl
@[simp] theorem busReadBit_outcome : (busReadBit s).2.outcome = s.outcome := rfl
@[simp] theorem busReadBit_bus : (busReadBit s).2.bus = (onRead s.bus).2 := rfl
@[simp] theorem busReadBit_inputs : (busReadBit s).2.inputs = s.inputs := rfl
@[simp] theorem busReadBit_answers : (busReadBit s).2.answers = s.answers := rfl

end

end Sys2Proof.Machine
end

