-- ==== Sys2Proof/Laws/Bus.lean ====
section
/-!
SUPPORT. The bus's answers: the oracle gives its script in order (spec/40_bus_primitives.md R96); the
reference bus keeps its devices and its line (R97).
-/

namespace Sys2Proof.Machine

@[simp] theorem onRead_oracle_cons (a : Bool) (rest : List Bool) (q : Question) :
    onRead (.oracle (a :: rest) q) = (a, .oracle rest q) := rfl

@[simp] theorem onReset_oracle_cons (a : Bool) (rest : List Bool) (q : Question) :
    onReset (.oracle (a :: rest) q) = (a, .oracle rest q) := rfl

@[simp] theorem onRead_oracle_nil (q : Question) :
    onRead (.oracle [] q) = (Config.busAnswer q, .oracle [] q.next) := rfl

@[simp] theorem onReset_oracle_nil (q : Question) :
    onReset (.oracle [] q) = (Config.busAnswer q, .oracle [] q.next) := rfl

@[simp] theorem onWrite_oracle (v : Bool) (script : List Bool) (q : Question) :
    onWrite v (.oracle script q) = .oracle script q := rfl

/-- Every device joins a pass with SEARCH_COMMAND (R97). -/
@[simp] theorem participates_searchCommand (d : Rom) :
    Config.participates Config.searchCommand d = true := by
  simp [Config.participates]

theorem refRead_devices (b : RefBus) :
    (refRead b).2.devices = b.devices ∧ (refRead b).2.stuck = b.stuck ∧ (refRead b).2.race = b.race ∧
      (refRead b).2.kb = b.kb ∧ (refRead b).2.nw = b.nw ∧ (refRead b).2.cmd = b.cmd := by
  unfold refRead
  split
  · exact ⟨rfl, rfl, rfl, rfl, rfl, rfl⟩
  · split <;> exact ⟨rfl, rfl, rfl, rfl, rfl, rfl⟩

theorem refWrite_devices (v : Bool) (b : RefBus) :
    (refWrite v b).devices = b.devices ∧ (refWrite v b).stuck = b.stuck := by
  unfold refWrite
  split <;> exact ⟨rfl, rfl⟩

/-- A write never brings a device back into the race (R100). -/
theorem refWrite_race_subset (v : Bool) (b : RefBus) : ∀ d ∈ (refWrite v b).race, d ∈ b.race := by
  intro d hd
  unfold refWrite at hd
  split at hd
  · simp only at hd
    split at hd
    · exact List.mem_of_mem_filter hd
    · exact hd
  · exact List.mem_of_mem_filter hd

end Sys2Proof.Machine
end

