-- ==== Sys2Proof/Laws/Ops.lean ====
section
/-!
SUPPORT. What the shared operations outside the pass can do: the immediate, the halt, the register read
port, the VERIFY compare, one item from outside.
-/

namespace Sys2Proof.Machine

@[simp] theorem isHalted_eq_false (s : State) : isHalted s = false ↔ s.fault = .none := by
  simp [isHalted]

@[simp] theorem isHalted_eq_true (s : State) : isHalted s = true ↔ s.fault ≠ .none := by
  simp [isHalted]

theorem withImm8_of_lt {n : Nat} (h : n < 256) (f : Byte → Host.Outcome State Fault Refusal) :
    withImm8 n f = f (BitVec.ofNat 8 n) := by simp [withImm8, h]

theorem withImm8_of_le {n : Nat} (h : 256 ≤ n) (f : Byte → Host.Outcome State Fault Refusal) :
    withImm8 n f = .refused (.immediateOutOfRange n) := by simp [withImm8, Nat.not_lt.mpr h]

/-- A byte is an immediate that has an encoding. -/
@[simp] theorem withImm8_toNat (b : Byte) (f : Byte → Host.Outcome State Fault Refusal) :
    withImm8 b.toNat f = f b := by
  rw [withImm8_of_lt b.isLt]
  simp

/-- What a register read can give: a byte, UnwrittenRead or UnmappedRegister. -/
theorem regRead_cases (off : Byte) (s : State) :
    (∃ v, regRead off s = .ok v) ∨ regRead off s = .error (.unwrittenRead, .host off) ∨
      regRead off s = .error (.unmappedRegister, .offset off) := by
  unfold regRead
  split_ifs <;> simp

/-- What the compare can do: it answers `same` and keeps the state, or raises UnwrittenRead. -/
theorem compareSaved_cases (found : Bool) (s : State) :
    (∃ same, compareSaved found s = .value same s ∧ (same = true → found = true)) ∨
      (found = true ∧ s.sRomW ≠ allWritten ∧
        compareSaved found s = .raised (raiseFault .unwrittenRead (.verify s.sRomW) s)) := by
  unfold compareSaved
  cases found <;> by_cases h : s.sRomW = allWritten <;> simp [h]

/-- What a step can do: wait, stop as halted, or handle the next item. -/
theorem step_cases (s : State) :
    (s.inputs = [] ∧ isHalted s = false ∧ step s = .next s) ∨
    (s.inputs = [] ∧ isHalted s = true ∧ step s = .fault (.halted s.fault)) ∨
    ∃ i rest, s.inputs = i :: rest ∧ step s = accept i { s with inputs := rest } := by
  unfold step
  cases h : s.inputs with
  | nil => cases hf : isHalted s <;> simp [await, hf]
  | cons i rest => simp

/-- What a command word can do at the port of a block that is not halted. -/
theorem acceptCommand_cases (w : Word) (s : State) :
    ((∃ e, decode w = .error e) ∧ acceptCommand w s = .next (raiseFault .illegalCommand (.word w) s)) ∨
    ∃ i, decode w = .ok i ∧ ((∃ t, exec i s = .next t ∧ acceptCommand w s = .next (commandDone w t)) ∨
      (∃ f, exec i s = .fault f ∧ acceptCommand w s = .fault f) ∨
      ∃ r, exec i s = .refused r ∧ acceptCommand w s = .refused r) := by
  unfold acceptCommand
  cases decode w with
  | error e => simp
  | ok i => cases h : exec i s <;> simp [h]

end Sys2Proof.Machine
end

