-- ==== Sys2Proof/Laws/Host.lean ====
section
/-!
SUPPORT. What a request of the host can do (spec/60_exceptions.md R173, R177): the lemmas the host macros'
proofs cite.
-/

namespace Sys2Proof.Machine

@[simp] theorem andThen_value {α β : Type} (a : α) (s : State) (f : α → State → Flow β) :
    (Flow.value a s).andThen f = f a s := rfl

@[simp] theorem andThen_raised {α β : Type} (s : State) (f : α → State → Flow β) :
    (Flow.raised s : Flow α).andThen f = .raised s := rfl

theorem afterExec_of_next {i : Instr} {s t : State} (h : exec i s = .next t) : afterExec i s = t := by
  simp [afterExec, h]

/-- A halted block accepts no command. -/
theorem hostCommand_of_halted {s : State} (i : Instr) (h : isHalted s = true) :
    hostCommand i s = .raised s := by
  unfold hostCommand
  cases encode i <;> simp [hostRequest, accept, h]

/-- A halted block answers no read. -/
theorem hostGet_of_halted {s : State} (off : Byte) (h : isHalted s = true) :
    hostGet off s = .raised s := by
  simp [hostGet, hostRequest, accept, h]

/-- A command the block takes and completes. -/
theorem hostCommand_of_next {s t : State} {i : Instr} {w : Word} (hs : isHalted s = false)
    (he : encode i = some w) (hd : decode w = .ok i) (hx : exec i s = .next t)
    (ht : isHalted t = false) :
    hostCommand i s = .value () { t with answers := t.answers ++ [.completed w] } := by
  have ht' : isHalted { t with answers := t.answers ++ [.completed w] } = false := ht
  simp only [hostCommand, he, hostRequest, accept, hs, acceptCommand, hd, hx, commandDone, ht, ht',
    Bool.false_eq_true, if_false]

/-- A read the block answers. -/
theorem hostGet_of_ok {s : State} {off v : Byte} (hs : isHalted s = false) (hr : regRead off s = .ok v) :
    hostGet off s = .value v { s with answers := s.answers ++ [.data off v] } := by
  have hs' : isHalted { s with answers := s.answers ++ [.data off v] } = false := hs
  simp only [hostGet, hostRequest, accept, hs, hostRead, hr, hs', Bool.false_eq_true, if_false,
    andThen_value]

/-- A read that faults halts the block, and gives nothing. -/
theorem hostGet_of_error {s : State} {off : Byte} {code : FaultCode} {info : FaultInfo}
    (hs : isHalted s = false) (hr : regRead off s = .error (code, info)) (hc : code ≠ .none) :
    hostGet off s = .raised (raiseFault code info s) := by
  have hh : isHalted (raiseFault code info s) = true := by simpa using hc
  simp only [hostGet, hostRequest, accept, hs, hostRead, hr, hh, Bool.false_eq_true, if_false, if_true,
    andThen_raised]

end Sys2Proof.Machine
end

