-- ==== Sys2Proof/Laws/PerInstr.lean ====
section
/-!
SUPPORT. Statements for all commands, one lemma per constructor of `Instr` (LAWS.json).
-/

/-- A command is well formed exactly when its immediate, if it takes one, is in 0..255 (R77). -/
def Sys2Proof.Laws.OperandRange.Statement (i : Sys2Proof.Instr) : Prop :=
  i.WF ↔ ∀ n, i.operand = some n → n < 256

namespace Sys2Proof.Laws.OperandRange

theorem resetSearch : Statement .resetSearch := by simp [Statement, Instr.WF, Instr.illFormed, Instr.operand]
theorem first : Statement .first := by simp [Statement, Instr.WF, Instr.illFormed, Instr.operand]
theorem next : Statement .next := by simp [Statement, Instr.WF, Instr.illFormed, Instr.operand]
theorem search (cmd : Nat) : Statement (.search cmd) := by
  simp [Statement, Instr.WF, Instr.illFormed, Instr.operand, immOk]
theorem targetSetup (fc : Nat) : Statement (.targetSetup fc) := by
  simp [Statement, Instr.WF, Instr.illFormed, Instr.operand, immOk]
theorem familySkipSetup : Statement .familySkipSetup := by
  simp [Statement, Instr.WF, Instr.illFormed, Instr.operand]
theorem verify : Statement .verify := by simp [Statement, Instr.WF, Instr.illFormed, Instr.operand]
theorem crcClear : Statement .crcClear := by simp [Statement, Instr.WF, Instr.illFormed, Instr.operand]
theorem crcUpdate (b : Nat) : Statement (.crcUpdate b) := by
  simp [Statement, Instr.WF, Instr.illFormed, Instr.operand, immOk]

end Sys2Proof.Laws.OperandRange

/-- The opcode of a command is the OP of its row of R71, whose RSV is 0. -/
def Sys2Proof.Laws.OpcodeRow.Statement (i : Sys2Proof.Instr) : Prop :=
  ∃ r ∈ Sys2Proof.opcodeTable, r.mnemonic = i.mnemonic ∧
    Sys2Proof.opField r.bits = i.op ∧ Sys2Proof.rsvField r.bits = 0#4

namespace Sys2Proof.Laws.OpcodeRow

theorem resetSearch : Statement .resetSearch :=
  ⟨⟨.resetSearch, 0x0000#16, 0xFFFF#16⟩, by decide, rfl, by decide, by decide⟩
theorem first : Statement .first := ⟨⟨.first, 0x0001#16, 0xFFFF#16⟩, by decide, rfl, by decide, by decide⟩
theorem next : Statement .next := ⟨⟨.next, 0x0002#16, 0xFFFF#16⟩, by decide, rfl, by decide, by decide⟩
theorem search (cmd : Nat) : Statement (.search cmd) :=
  ⟨⟨.search, 0x0003#16, 0x00FF#16⟩, by decide, rfl, by simp only [Instr.op]; decide, by decide⟩
theorem targetSetup (fc : Nat) : Statement (.targetSetup fc) :=
  ⟨⟨.targetSetup, 0x0004#16, 0x00FF#16⟩, by decide, rfl, by simp only [Instr.op]; decide, by decide⟩
theorem familySkipSetup : Statement .familySkipSetup :=
  ⟨⟨.familySkipSetup, 0x0005#16, 0xFFFF#16⟩, by decide, rfl, by decide, by decide⟩
theorem verify : Statement .verify := ⟨⟨.verify, 0x0006#16, 0xFFFF#16⟩, by decide, rfl, by decide, by decide⟩
theorem crcClear : Statement .crcClear :=
  ⟨⟨.crcClear, 0x0007#16, 0xFFFF#16⟩, by decide, rfl, by decide, by decide⟩
theorem crcUpdate (b : Nat) : Statement (.crcUpdate b) :=
  ⟨⟨.crcUpdate, 0x0008#16, 0x00FF#16⟩, by decide, rfl, by simp only [Instr.op]; decide, by decide⟩

end Sys2Proof.Laws.OpcodeRow
end

