-- ==== Sys2Proof/Laws/Search.lean ====
section
/-!
SUPPORT. What the parts of a pass can do, said once: the fields they keep, and how a position ends
(spec/41_search.md R114 to R120).
-/

namespace Sys2Proof.Machine

/-- The state a procedure leaves, at its return or at its raise. -/
def flowState {α : Type} : Flow α → State
  | .value _ s => s
  | .raised s => s

/-- The fields the 64 positions of a pass never write. -/
structure PositionKeeps (s t : State) : Prop where
  ld      : t.ld = s.ld
  ldf     : t.ldf = s.ldf
  crc     : t.crc = s.crc
  result  : t.result = s.result
  sRom    : t.sRom = s.sRom
  sRomW   : t.sRomW = s.sRomW
  sLd     : t.sLd = s.sLd
  sLfd    : t.sLfd = s.sLfd
  sLdf    : t.sLdf = s.sLdf
  outcome : t.outcome = s.outcome
  inputs  : t.inputs = s.inputs
  answers : t.answers = s.answers

theorem PositionKeeps.refl (s : State) : PositionKeeps s s :=
  ⟨rfl, rfl, rfl, rfl, rfl, rfl, rfl, rfl, rfl, rfl, rfl, rfl⟩

theorem PositionKeeps.trans {s t u : State} (h : PositionKeeps s t) (g : PositionKeeps t u) :
    PositionKeeps s u :=
  ⟨g.ld.trans h.ld, g.ldf.trans h.ldf, g.crc.trans h.crc, g.result.trans h.result,
    g.sRom.trans h.sRom, g.sRomW.trans h.sRomW, g.sLd.trans h.sLd, g.sLfd.trans h.sLfd,
    g.sLdf.trans h.sLdf, g.outcome.trans h.outcome, g.inputs.trans h.inputs, g.answers.trans h.answers⟩

/-- The fields a raise writes are the same. -/
structure NoRaise (s t : State) : Prop where
  fault     : t.fault = s.fault
  faultInfo : t.faultInfo = s.faultInfo

theorem NoRaise.trans {s t u : State} (h : NoRaise s t) (g : NoRaise t u) : NoRaise s u :=
  ⟨g.fault.trans h.fault, g.faultInfo.trans h.faultInfo⟩

/-! ### The command byte -/

theorem writeBitsFrom_keeps (b : Byte) (n i : Nat) (s : State) :
    ∃ bus history, writeBitsFrom b n i s = { s with bus := bus, history := history } := by
  induction n generalizing i s with
  | zero => exact ⟨s.bus, s.history, rfl⟩
  | succ n ih =>
    obtain ⟨bus, history, h⟩ := ih (i + 1) (busWriteBit (b.getLsbD i) s)
    exact ⟨bus, history, by rw [writeBitsFrom, h]; rfl⟩

theorem busWriteByte_positionKeeps (b : Byte) (s : State) : PositionKeeps s (busWriteByte b s) := by
  obtain ⟨bus, history, h⟩ := writeBitsFrom_keeps b 8 0 s
  rw [busWriteByte, h]
  constructor <;> rfl

theorem busWriteByte_noRaise (b : Byte) (s : State) : NoRaise s (busWriteByte b s) := by
  obtain ⟨bus, history, h⟩ := writeBitsFrom_keeps b 8 0 s
  rw [busWriteByte, h]
  exact ⟨rfl, rfl⟩

/-! ### One position -/

/-- The two answers the bus gives at position `K`: the bit, then its complement (R118 step a). -/
def answersAt (s : State) : Bool × Bool := ((onRead s.bus).1, (onRead (onRead s.bus).2).1)

/-- After the two reads of position `K`, in phase RCMP(K). -/
def afterReads (K : Nat) (s : State) : State := readCmp K (readId K s)

@[simp] theorem afterReads_rom (K : Nat) (s : State) : (afterReads K s).rom = s.rom := rfl
@[simp] theorem afterReads_romW (K : Nat) (s : State) : (afterReads K s).romW = s.romW := rfl
@[simp] theorem afterReads_ld (K : Nat) (s : State) : (afterReads K s).ld = s.ld := rfl
@[simp] theorem afterReads_lfd (K : Nat) (s : State) : (afterReads K s).lfd = s.lfd := rfl
@[simp] theorem afterReads_lz (K : Nat) (s : State) : (afterReads K s).lz = s.lz := rfl
@[simp] theorem afterReads_ok (K : Nat) (s : State) : (afterReads K s).ok = s.ok := rfl
@[simp] theorem afterReads_idb (K : Nat) (s : State) : (afterReads K s).idb = (answersAt s).1 := rfl
@[simp] theorem afterReads_cmpb (K : Nat) (s : State) : (afterReads K s).cmpb = (answersAt s).2 := rfl
@[simp] theorem afterReads_ph (K : Nat) (s : State) : (afterReads K s).ph = .rcmp K := rfl
@[simp] theorem afterReads_bus (K : Nat) (s : State) :
    (afterReads K s).bus = (onRead (onRead s.bus).2).2 := rfl
@[simp] theorem afterReads_history (K : Nat) (s : State) :
    (afterReads K s).history = s.history ++ [.r (answersAt s).1] ++ [.r (answersAt s).2] := rfl

/-- The direction and the state in which it is written back: DIR set, a 0 at a discrepancy noted. -/
def withDirection (K : Nat) (d discrepancy : Bool) (s : State) : State :=
  if discrepancy && !d then noteZero K { s with dir := d } else { s with dir := d }

/-- The four ways a position ends (R118, R119): nobody responded; all agree; a discrepancy with its
direction; a discrepancy whose replay reads an unwritten bit. -/
theorem discStep_cases (K : Nat) (s : State) :
    ((answersAt s).1 = true ∧ (answersAt s).2 = true ∧
      discStep K s = .value .abort { afterReads K s with ok := false }) ∨
    ((answersAt s).1 ≠ (answersAt s).2 ∧
      discStep K s = .value .go (writeDirection K (withDirection K (answersAt s).1 false (afterReads K s)))) ∨
    ((answersAt s).1 = false ∧ (answersAt s).2 = false ∧
      (K < s.ld.toNat → romBit s.romW K = true) ∧
      discStep K s = .value .go (writeDirection K (withDirection K
        (if K < s.ld.toNat then romBit s.rom K else K == s.ld.toNat) true (afterReads K s)))) ∨
    ((answersAt s).1 = false ∧ (answersAt s).2 = false ∧ K < s.ld.toNat ∧ romBit s.romW K = false ∧
      discStep K s = .raised (raiseFault .unwrittenRead (.replay K) (afterReads K s))) := by
  have hd : discStep K s = match resolve K (afterReads K s) with
    | .raised t => .raised t
    | .value .abort t => .value .abort t
    | .value .go t => .value .go (writeDirection K t) := rfl
  cases h1 : (answersAt s).1 <;> cases h2 : (answersAt s).2
  · by_cases hk : K < s.ld.toNat
    · cases hw : romBit s.romW K
      · refine .inr (.inr (.inr ⟨rfl, rfl, hk, rfl, ?_⟩))
        rw [hd]
        simp [resolve, h1, h2, chooseDirection, hk, hw]
      · refine .inr (.inr (.inl ⟨rfl, rfl, fun _ => rfl, ?_⟩))
        rw [hd]
        cases hr : romBit s.rom K <;>
          simp [resolve, h1, h2, chooseDirection, hk, hw, hr, withDirection]
    · refine .inr (.inr (.inl ⟨rfl, rfl, fun h => absurd h hk, ?_⟩))
      rw [hd]
      cases hr : K == s.ld.toNat <;>
        simp [resolve, h1, h2, chooseDirection, hk, hr, withDirection]
  · refine .inr (.inl ⟨by simp, ?_⟩)
    rw [hd]
    simp [resolve, h1, h2, withDirection]
  · refine .inr (.inl ⟨by simp, ?_⟩)
    rw [hd]
    simp [resolve, h1, h2, withDirection]
  · refine .inl ⟨rfl, rfl, ?_⟩
    rw [hd]
    simp [resolve, h1, h2]

theorem afterReads_positionKeeps (K : Nat) (s : State) : PositionKeeps s (afterReads K s) :=
  ⟨rfl, rfl, rfl, rfl, rfl, rfl, rfl, rfl, rfl, rfl, rfl, rfl⟩

theorem withDirection_positionKeeps (K : Nat) (d z : Bool) (s : State) :
    PositionKeeps s (withDirection K d z s) := by
  unfold withDirection
  split <;> exact ⟨rfl, rfl, rfl, rfl, rfl, rfl, rfl, rfl, rfl, rfl, rfl, rfl⟩

theorem withDirection_noRaise (K : Nat) (d z : Bool) (s : State) : NoRaise s (withDirection K d z s) := by
  unfold withDirection
  split <;> exact ⟨rfl, rfl⟩

theorem writeDirection_positionKeeps (K : Nat) (s : State) : PositionKeeps s (writeDirection K s) :=
  ⟨rfl, rfl, rfl, rfl, rfl, rfl, rfl, rfl, rfl, rfl, rfl, rfl⟩

/-- A position keeps what a pass's positions keep, however it ends. -/
theorem discStep_positionKeeps (K : Nat) (s : State) : PositionKeeps s (flowState (discStep K s)) := by
  obtain ⟨-, -, h⟩ | ⟨-, h⟩ | ⟨-, -, -, h⟩ | ⟨-, -, -, -, h⟩ := discStep_cases K s <;> rw [h]
  · exact (afterReads_positionKeeps K s).trans (by constructor <;> rfl)
  · exact ((afterReads_positionKeeps K s).trans (withDirection_positionKeeps K _ _ _)).trans
      (writeDirection_positionKeeps K _)
  · exact ((afterReads_positionKeeps K s).trans (withDirection_positionKeeps K _ _ _)).trans
      (writeDirection_positionKeeps K _)
  · exact (afterReads_positionKeeps K s).trans (by constructor <;> rfl)

/-- A position that returns raises nothing. -/
theorem discStep_noRaise (K : Nat) (s t : State) (r : Resolution) (h : discStep K s = .value r t) :
    NoRaise s t := by
  obtain ⟨-, -, g⟩ | ⟨-, g⟩ | ⟨-, -, -, g⟩ | ⟨-, -, -, -, g⟩ := discStep_cases K s <;> rw [g] at h <;>
    cases h
  · exact ⟨rfl, rfl⟩
  · obtain ⟨hf, hi⟩ := withDirection_noRaise K (answersAt s).1 false (afterReads K s)
    exact ⟨hf, hi⟩
  · obtain ⟨hf, hi⟩ := withDirection_noRaise K
      (if K < s.ld.toNat then romBit s.rom K else K == s.ld.toNat) true (afterReads K s)
    exact ⟨hf, hi⟩

/-- A position that raises raises UnwrittenRead at its own replay (R119). -/
theorem discStep_raised (K : Nat) (s t : State) (h : discStep K s = .raised t) :
    t = raiseFault .unwrittenRead (.replay K) (afterReads K s) ∧
      K < s.ld.toNat ∧ romBit s.romW K = false := by
  obtain ⟨-, -, g⟩ | ⟨-, g⟩ | ⟨-, -, -, g⟩ | ⟨-, -, hk, hw, g⟩ := discStep_cases K s <;> rw [g] at h <;>
    cases h
  exact ⟨rfl, hk, hw⟩

/-! ### All positions -/

/-- The 64 positions keep what a position keeps. -/
theorem positions_positionKeeps (n : Nat) (s : State) : PositionKeeps s (flowState (positions n s)) := by
  induction n generalizing s with
  | zero => exact PositionKeeps.refl s
  | succ n ih =>
    have h := discStep_positionKeeps (64 - n) s
    unfold positions
    cases hd : discStep (64 - n) s with
    | raised t => simpa [hd] using h
    | value r t =>
      rw [hd] at h
      cases r with
      | abort => exact h
      | go => exact h.trans (ih t)

/-- Positions that return raise nothing. -/
theorem positions_noRaise (n : Nat) (s t : State) (r : Resolution) (h : positions n s = .value r t) :
    NoRaise s t := by
  induction n generalizing s with
  | zero => cases h; exact ⟨rfl, rfl⟩
  | succ n ih =>
    unfold positions at h
    cases hd : discStep (64 - n) s with
    | raised u => rw [hd] at h; cases h
    | value q u =>
      rw [hd] at h
      cases q with
      | abort => cases h; exact discStep_noRaise _ _ _ _ hd
      | go => exact (discStep_noRaise _ _ _ _ hd).trans (ih u h)

/-- Positions that raise raise UnwrittenRead at the replay of a position below LD (R119). -/
theorem positions_raised (n : Nat) (s t : State) (h : positions n s = .raised t) :
    t.fault = .unwrittenRead ∧ ∃ K, K < s.ld.toNat ∧ t.faultInfo = .replay K ∧ t.ph = .rcmp K := by
  induction n generalizing s with
  | zero => cases h
  | succ n ih =>
    unfold positions at h
    cases hd : discStep (64 - n) s with
    | raised u =>
      rw [hd] at h
      cases h
      obtain ⟨rfl, hk, -⟩ := discStep_raised _ _ _ hd
      exact ⟨rfl, _, hk, rfl, rfl⟩
    | value q u =>
      rw [hd] at h
      cases q with
      | abort => cases h
      | go =>
        have hld : u.ld = s.ld := by simpa [hd, flowState] using (discStep_positionKeeps (64 - n) s).ld
        simpa [hld] using ih u h

/-! ### The pass -/

/-- The fields a whole pass never writes: neither CRC, RESULT nor the shadows, nor the ports' lists. -/
structure PassKeeps (s t : State) : Prop where
  crc     : t.crc = s.crc
  result  : t.result = s.result
  sRom    : t.sRom = s.sRom
  sRomW   : t.sRomW = s.sRomW
  sLd     : t.sLd = s.sLd
  sLfd    : t.sLfd = s.sLfd
  sLdf    : t.sLdf = s.sLdf
  inputs  : t.inputs = s.inputs
  answers : t.answers = s.answers

theorem PositionKeeps.passKeeps {s t : State} (h : PositionKeeps s t) : PassKeeps s t :=
  ⟨h.crc, h.result, h.sRom, h.sRomW, h.sLd, h.sLfd, h.sLdf, h.inputs, h.answers⟩

theorem PassKeeps.trans {s t u : State} (h : PassKeeps s t) (g : PassKeeps t u) : PassKeeps s u :=
  ⟨g.crc.trans h.crc, g.result.trans h.result, g.sRom.trans h.sRom, g.sRomW.trans h.sRomW,
    g.sLd.trans h.sLd, g.sLfd.trans h.sLfd, g.sLdf.trans h.sLdf, g.inputs.trans h.inputs,
    g.answers.trans h.answers⟩

/-- An aborted pass (R122). -/
theorem concludePass_aborted (s : State) (h : s.ok = false) :
    concludePass s = .value .aborted { clearSession s with outcome := some .aborted, ph := .fin } := by
  simp [concludePass, h, passEnds]

/-- A completed pass whose address is all zero (R122). -/
theorem concludePass_zero (s : State) (h : s.ok = true) (hr : s.rom = 0#64) :
    concludePass s = .value .zeroAddress { clearSession s with outcome := some .zeroAddress, ph := .fin } := by
  simp only [concludePass, h, passEnds, if_true, completePass_ok, completePass_rom, hr]
  rfl

/-- A completed pass that found a device (R121). -/
theorem concludePass_found (s : State) (h : s.ok = true) (hr : s.rom ≠ 0#64) :
    concludePass s = .value .found { completePass s with outcome := some .found, ph := .fin } := by
  simp only [concludePass, h, passEnds, if_true, completePass_ok, completePass_rom, hr]
  rfl

/-- The end of a pass: its outcome recorded, PH at FIN, LD, LFD and LDF written, nothing else. -/
theorem concludePass_value (s : State) : ∃ o t, concludePass s = .value o t ∧
    t = { s with ld := t.ld, lfd := t.lfd, ldf := t.ldf, outcome := some o, ph := .fin } := by
  cases hok : s.ok
  · exact ⟨_, _, concludePass_aborted s hok, by rw [← hok]; rfl⟩
  · by_cases hr : s.rom = 0#64
    · exact ⟨_, _, concludePass_zero s hok hr, by rw [← hok]; rfl⟩
    · exact ⟨_, _, concludePass_found s hok hr, by rw [← hok]; rfl⟩

/-- A pass keeps what it never writes, however it ends. -/
theorem searchCore_passKeeps (cmd : Byte) (s : State) : PassKeeps s (flowState (searchCore cmd s)) := by
  unfold searchCore
  split
  · exact ⟨rfl, rfl, rfl, rfl, rfl, rfl, rfl, rfl, rfl⟩
  · simp only
    split
    · have h0 : PassKeeps s (busReset { s with ph := .rst, outcome := none }).2 := by constructor <;> rfl
      have h1 := h0.trans (busWriteByte_positionKeeps cmd _).passKeeps
      have h2 : PassKeeps s { busWriteByte cmd (busReset { s with ph := .rst, outcome := none }).2 with
          lz := 0#7, ok := true } := h1.trans (by constructor <;> rfl)
      have h3 := h2.trans (positions_positionKeeps 64 { busWriteByte cmd
        (busReset { s with ph := .rst, outcome := none }).2 with lz := 0#7, ok := true }).passKeeps
      unfold searchPositions
      cases hp : positions 64 { busWriteByte cmd
        (busReset { s with ph := .rst, outcome := none }).2 with lz := 0#7, ok := true } with
      | raised t => rw [hp] at h3; exact h3
      | value r t =>
        rw [hp] at h3
        obtain ⟨o, u, hu, hut⟩ := concludePass_value t
        simp only [hu]
        rw [hut]
        exact h3.trans (by constructor <;> rfl)
    · exact ⟨rfl, rfl, rfl, rfl, rfl, rfl, rfl, rfl, rfl⟩

/-- A pass that returns raises nothing. -/
theorem searchCore_noRaise (cmd : Byte) (s t : State) (o : PassOutcome) (h : searchCore cmd s = .value o t) :
    NoRaise s t := by
  unfold searchCore at h
  split at h
  · cases h; exact ⟨rfl, rfl⟩
  · simp only at h
    split at h
    · unfold searchPositions at h
      split at h
      · cases h
      · next r u hp =>
        obtain ⟨o', v, hv, hvt⟩ := concludePass_value u
        rw [hv] at h
        cases h
        have g := positions_noRaise _ _ _ _ hp
        have b := busWriteByte_noRaise cmd (busReset { s with ph := .rst, outcome := none }).2
        rw [hvt]
        exact ⟨(g.fault.trans b.fault), (g.faultInfo.trans b.faultInfo)⟩
    · cases h; exact ⟨rfl, rfl⟩

/-- A pass that raises raises UnwrittenRead at the replay of a position below LD, in phase RCMP (R119). -/
theorem searchCore_raised (cmd : Byte) (s t : State) (h : searchCore cmd s = .raised t) :
    t.fault = .unwrittenRead ∧ ∃ K, K < s.ld.toNat ∧ t.faultInfo = .replay K ∧ t.ph = .rcmp K := by
  unfold searchCore at h
  split at h
  · cases h
  · simp only at h
    split at h
    · unfold searchPositions at h
      split at h
      · next u hp =>
        cases h
        obtain ⟨hf, K, hk, hi, hp⟩ := positions_raised _ _ _ hp
        have hld := (busWriteByte_positionKeeps cmd (busReset { s with ph := .rst, outcome := none }).2).ld
        exact ⟨hf, K, by simpa [hld] using hk, hi, hp⟩
      · next r u hp =>
        obtain ⟨o', v, hv, -⟩ := concludePass_value u
        rw [hv] at h
        cases h
    · cases h

end Sys2Proof.Machine
end

