-- ==== Sys2Proof/Tests/Slice0.lean ====
section
/-!
SUPPORT. Tests: the well-formedness smoke, decoding, small steps, and a witness for the hypotheses of each
statement. Expected values come from spec/95_test_vectors.md (the section is named) or from the rule.
-/

set_option maxRecDepth 100000

namespace Sys2Proof.Tests
open Sys2Proof Sys2Proof.Machine

/-! ### Helpers -/

/-- A ROM code from its eight bytes, ROM[0] first. -/
def rom (b : List Nat) : Rom := romOfBytes (b.map (BitVec.ofNat 8))

/-- Devices A to E of 95 §1. -/
def devA : Rom := rom [0x28, 0x01, 0, 0, 0, 0, 0, 0x29]
def devB : Rom := rom [0x28, 0x02, 0, 0, 0, 0, 0, 0x70]
def devC : Rom := rom [0x10, 0x01, 0, 0, 0, 0, 0, 0xCC]
def devD : Rom := rom [0x10, 0x80, 0, 0, 0, 0, 0, 0x11]
def devE : Rom := rom [0x28, 0xFF, 0x4B, 0x1A, 0x60, 0x16, 0x03, 0xF3]

/-- The readings whose id bits and cmp bits, in visiting order, are the bits of two ROM codes. -/
def readings (id cmp : Rom) : List Reading :=
  (List.range 64).map fun i => (romBit id (i + 1), romBit cmp (i + 1))

/-- The readings of a lone device: no discrepancy. -/
def alone (d : Rom) : List Reading := readings d (~~~d)

/-- `s` with a bus that reports presence and gives these readings. -/
def onBus (rs : List Reading) (s : State) : State := { s with bus := .oracle (true :: (scriptOf rs ++ [])) ⟨0, 0⟩ }

/-- The next state of an outcome. -/
def after (o : Host.Outcome State Fault Refusal) : Option State :=
  match o with
  | .next t => some t
  | .fault _ => none
  | .refused _ => none

/-- A session: ROM (all written), LD, LFD, LDF. -/
def session (r : Rom) (ld : BitVec 7) (lfd : BitVec 4) (ldf : Bool) : State :=
  { State.reset with rom := r, romW := allWritten, ld := ld, lfd := lfd, ldf := ldf }

/-- What the tests look at: ROM, LD, LFD, LDF. -/
def look (o : Host.Outcome State Fault Refusal) : Option (Rom × Nat × Nat × Bool) :=
  (after o).map fun t => (t.rom, t.ld.toNat, t.lfd.toNat, t.ldf)

/-- A reference bus with these devices. -/
def refBus (devices : List Rom) : RefBus := ⟨devices, false, [], 0, 0x00#8, 1, .id⟩

/-- The block after hardware reset, on a reference bus. -/
def onDevices (devices : List Rom) : State := { State.reset with bus := .reference (refBus devices) }

/-- A block halted by an illegal word. -/
def haltedState : State := { State.reset with fault := .illegalCommand, faultInfo := .word 0x0102#16 }

/-! ### Well-formedness: the check refuses an ill-formed term for each reason (R77) -/

theorem test_wf_search_256 : Instr.illFormed (.search 256) = some .immediateOutOfRange := by decide
theorem test_wf_targetSetup_256 : Instr.illFormed (.targetSetup 256) = some .immediateOutOfRange := by decide
theorem test_wf_crcUpdate_256 : Instr.illFormed (.crcUpdate 256) = some .immediateOutOfRange := by decide
theorem test_wf_search_255 : Instr.illFormed (.search 255) = none := by decide
theorem test_wf_next_with_operand : (AsmTerm.check ⟨.next, some 1⟩) = .error .operandNotAllowed := rfl
theorem test_wf_search_without_operand : (AsmTerm.check ⟨.search, none⟩) = .error .operandMissing := rfl
theorem test_wf_crcUpdate_term_256 : (AsmTerm.check ⟨.crcUpdate, some 256⟩) = .error .immediateOutOfRange := rfl

/-! ### Decoding (95 §6, table X; words from R70 and R71) -/

theorem test_decode_resetSearch : decode 0b0000000000000000#16 = .ok .resetSearch := rfl
theorem test_decode_first : decode 0b0000000000000001#16 = .ok .first := rfl
theorem test_decode_next : decode 0b0000000000000010#16 = .ok .next := rfl
theorem test_decode_search : decode 0b1111000000000011#16 = .ok (.search 0xF0) := rfl
theorem test_decode_targetSetup : decode 0b0010100000000100#16 = .ok (.targetSetup 0x28) := rfl
theorem test_decode_familySkipSetup : decode 0b0000000000000101#16 = .ok .familySkipSetup := rfl
theorem test_decode_verify : decode 0b0000000000000110#16 = .ok .verify := rfl
theorem test_decode_crcClear : decode 0b0000000000000111#16 = .ok .crcClear := rfl
theorem test_decode_crcUpdate : decode 0b0101101000001000#16 = .ok (.crcUpdate 0x5A) := rfl
theorem test_decode_op_F : decode 0x000F#16 = .error .opcode := rfl
theorem test_decode_rsv : decode 0x0010#16 = .error .reserved := rfl
theorem test_decode_arg_on_next : decode 0x0102#16 = .error .argument := rfl
theorem test_encode_search_EC : encode (.search 0xEC) = some 0xEC03#16 := rfl
theorem test_table_word : decodeTableWord 16 0x2804 = some (.targetSetup 0x28) := rfl

/-! ### The assembler (R75) -/

theorem test_parse_search :
    parseLine ['S', 'E', 'A', 'R', 'C', 'H', ' ', '0', 'x', 'F', '0', ' ', ';', 'x'] =
      .ok (.command ⟨.search, some 0xF0⟩) := by decide
theorem test_parse_read : parseLine ['R', 'D', ' ', 'R', 'O', 'M', '7'] = .ok (.rd (.rom 7)) := by decide

/-! ### Search commands -/

/-- S-R: RESET_SEARCH after S3 step 3. -/
theorem test_resetSearch : look (exec .resetSearch (session devB 9#7 4#4 false)) = some (devB, 0, 0, false) := by
  decide

/-- S3 step 1: the readings of P1 give D, LD = 9, LFD = 4. -/
theorem test_first_finds_D :
    look (exec .first (onBus (readings (rom [0x10, 0x80, 0, 0, 0, 0, 0, 0x11])
      (rom [0xE7, 0x7E, 0xFF, 0xFF, 0xFF, 0xFF, 0xFF, 0xEE])) State.reset)) = some (devD, 9, 4, false) := by
  decide

/-- S5: an abort at position 10 leaves positions 1 to 9 written and the session cleared. -/
theorem test_first_aborts_at_10 :
    ((after (exec .first (onBus ((readings devD (rom [0xE7, 0x7E, 0xFF, 0xFF, 0xFF, 0xFF, 0xFF, 0xEE])).take 9 ++
      [(true, true)]) State.reset))).map fun t => (t.rom, t.romW, t.history.length, t.outcome)) =
      some (0x10#64, 0x1FF#64, 38, some .aborted) := by
  decide

/-- S3 step 2: from D with LD = 9, position 4 replays 0 and position 9 takes 1. -/
theorem test_next_finds_C :
    look (exec .next (onBus (readings (rom [0x10, 0, 0, 0, 0, 0, 0, 0xCC])
      (rom [0xE7, 0xFE, 0xFF, 0xFF, 0xFF, 0xFF, 0xFF, 0x33])) (session devD 9#7 4#4 false))) =
      some (devC, 4, 4, false) := by
  decide

/-- S3 step 4: the last device sets LDF, LFD is left over. -/
theorem test_next_finds_last :
    look (exec .next (onBus (readings (rom [0x20, 0, 0, 0, 0, 0, 0, 0x29])
      (rom [0xD7, 0xFE, 0xFF, 0xFF, 0xFF, 0xFF, 0xFF, 0xD6])) (session devB 9#7 4#4 false))) =
      some (devA, 0, 4, true) := by
  decide

/-- S2: a lone device, found by SEARCH. -/
theorem test_search_finds_E :
    look (exec (.search 0xEC) (onBus (alone devE) State.reset)) = some (devE, 0, 0, true) := by
  decide

/-- S14: the command byte 0xEC goes out as W0 W0 W1 W1 W0 W1 W1 W1. -/
theorem test_search_sends_EC :
    ((after (exec (.search 0xEC) (onBus [(true, true)] State.reset))).map fun t => t.history) =
      some [.rst true, .w false, .w false, .w true, .w true, .w false, .w true, .w true, .w true,
        .r true, .r true] := by
  decide

/-! ### Family commands -/

/-- S6 step 1. -/
theorem test_targetSetup_28 : look (exec (.targetSetup 0x28) State.reset) = some (0x28#64, 64, 0, false) := by
  decide

/-- S8a step 2. -/
theorem test_familySkip_after_D :
    look (exec .familySkipSetup (session devD 9#7 4#4 false)) = some (devD, 4, 0, false) := by
  decide

/-- S11. -/
theorem test_familySkip_lfd_0 : look (exec .familySkipSetup State.reset) = some (0#64, 0, 0, true) := by
  decide

/-! ### VERIFY -/

/-- V5: E stored, E answers: VFOUND = VSAME = RES = 1 and LDF is restored. -/
theorem test_verify_same :
    ((after (exec .verify (onBus (alone devE) (session devE 0#7 0#4 true)))).map fun t =>
      (t.rom, t.ldf, t.result.vfound, t.result.vsame)) = some (devE, true, true, true) := by
  decide

/-- V4: nothing was ever written and E answers: the compare faults and the restore does not run. -/
theorem test_verify_unwritten :
    ((after (exec .verify (onBus (alone devE) State.reset))).map fun t =>
      (t.fault, t.faultInfo, t.rom, t.ldf, t.history.length)) =
      some (.unwrittenRead, .verify 0#64, devE, true, 201) := by
  decide

/-! ### CRC-8 -/

/-- C-1, C-2. -/
theorem test_crc_28 : crcStep 0x00#8 0x28#8 = 0xE1#8 := by decide
/-- C-1: the check value of "123456789". -/
theorem test_crc8_check :
    crc8 [0x31#8, 0x32#8, 0x33#8, 0x34#8, 0x35#8, 0x36#8, 0x37#8, 0x38#8, 0x39#8] = 0xA1#8 := by decide
/-- C-2. -/
theorem test_crcUpdate :
    ((after (exec (.crcUpdate 0x01) { State.reset with crc := 0x5E#8 })).map fun t => t.crc) =
      some 0x9A#8 := by decide
theorem test_crcClear :
    ((after (exec .crcClear { State.reset with crc := 0x5E#8 })).map fun t => t.crc) = some 0x00#8 := by decide

/-! ### Host macros (R76) -/

/-- A halted block gives CHECK_ROM_CRC nothing (R173). -/
theorem test_checkRomCrc_halted : checkRomCrc haltedState = .raised haltedState := rfl

/-- RD ROM0 of an unwritten byte halts the block inside CHECK_ROM_CRC. -/
theorem test_checkRomCrc_unwritten :
    (match checkRomCrc State.reset with
      | .raised t => (t.fault, t.faultInfo)
      | .value _ t => (t.fault, t.faultInfo)) = (.unwrittenRead, .host 0x00#8) := by decide

/-- The CRC byte of device A is right (95 §1). -/
theorem test_checkRomCrc_A :
    (match checkRomCrc (session devA 0#7 0#4 false) with
      | .raised _ => false
      | .value ok _ => ok) = true := by decide

/-! ### Steps (95 §7, program 5) -/

theorem test_step_illegal_word :
    ((after (step (State.reset.withFetchWord 16 0x0102))).map fun t => (t.fault, t.faultInfo, t.history)) =
      some (.illegalCommand, .word 0x0102#16, []) := by decide
theorem test_step_crcUpdate :
    ((after (step (State.reset.withFetchWord 16 0x5A08))).map fun t => (t.crc, t.answers)) =
      some (0xA5#8, [.completed 0x5A08#16]) := by decide
theorem test_step_read_unwritten :
    ((after (step { State.reset with inputs := [.read 0x00#8] })).map fun t => (t.fault, t.faultInfo)) =
      some (.unwrittenRead, .host 0x00#8) := by decide
theorem test_step_reset_ends_halt :
    ((after (step { haltedState with inputs := [.hardwareReset] })).map fun t => t.fault) = some .none := by
  decide

/-! ### Witnesses: concrete states and operands that meet the hypotheses of each statement -/

/-- From the positions below `n + 1` to the positions 1 to `n`. -/
theorem upTo {P : Nat → Prop} (n : Nat) (h : ∀ k, k < n + 1 → 1 ≤ k → P k) : ∀ k, 1 ≤ k → k ≤ n → P k :=
  fun k h1 h2 => h k (by omega) h1

/-- The readings of S3 steps 2 and 4 end in a lone device: discrepancies at 4 and 9 only. -/
def twoDiscrepancies : List Reading :=
  readings (rom [0x10, 0, 0, 0, 0, 0, 0, 0xCC]) (rom [0xE7, 0xFE, 0xFF, 0xFF, 0xFF, 0xFF, 0xFF, 0x33])

/-- `k` readings of a discrepancy each. -/
def discrepancies (k : Nat) : List Reading := List.replicate k (false, false)

/-- A state that waits for one item from outside. -/
def facing (i : HostInput) (s : State) : State := { s with inputs := [i] }

/-- A session in the middle of an enumeration. -/
def midway : State := session devD 9#7 4#4 false

theorem midway_sound : Sound { midway with inputs := [.command 0x0002#16] } where
  range := ⟨by decide, by decide, by decide, by decide, by decide, by decide⟩
  idle := fun _ => rfl
  replay := fun _ k h1 h2 => upTo (P := fun k => romBit allWritten k = true) 8 (by decide) k h1
    (by have : k < 9 := h2; omega)
  family := fun _ k h1 h2 => upTo (P := fun k => romBit allWritten k = true) 8 (by decide) k h1
    (by have : k < 4 := h2; omega)
  result := by decide
  info := rfl

theorem witness_DecodeOfEncodeIsIdentity :
    Instr.WF (.search 0) ∧ Instr.WF (.targetSetup 255) ∧ Instr.WF .next := by decide

theorem witness_EncodeOfDecodeIsIdentity :
    decode 0x0003#16 = .ok (.search 0) ∧ decode 0xFF08#16 = .ok (.crcUpdate 255) := ⟨rfl, rfl⟩

theorem witness_IllegalWordsRaiseIllegalCommand :
    decode 0x0009#16 = .error .opcode ∧ decode 0x0100#16 = .error .argument ∧
    decode 0x0018#16 = .error .reserved ∧
    isHalted (facing (.command 0x0009#16) State.reset) = false ∧
    (facing (.command 0x0009#16) State.reset).inputs = [.command 0x0009#16] := ⟨rfl, rfl, rfl, rfl, rfl⟩

theorem witness_DecodeFollowsOpcodeTable : ∃ r ∈ opcodeTable, r.selects 0xFF04#16 = true := by decide

theorem witness_AssemblerAcceptsExactlyEncodableTerms :
    (Mnemonic.shape .next = .inl .next) ∧ (Mnemonic.shape .search = .inr .search) ∧
    255 ≤ 255 ∧ ¬ 256 ≤ 255 := ⟨rfl, rfl, by decide, by decide⟩

theorem witness_SearchPositionIsOneBitOfOneByte : 1 ≤ 1 ∧ 1 ≤ 64 ∧ 64 ≤ 64 := by decide

theorem witness_TraversalKeyIsReversedAddress_1 :
    romBit devA 3 = false ∧ romBit (0x2C#64) 3 = true ∧
      ∀ j, 1 ≤ j → j < 3 → romBit devA j = romBit 0x2C#64 j :=
  ⟨by decide, by decide, fun j h1 h2 =>
    upTo (P := fun j => romBit devA j = romBit 0x2C#64 j) 2 (by decide) j h1 (by omega)⟩

theorem witness_TraversalKeyIsReversedAddress_64 :
    romBit devA 64 = false ∧ romBit (setRomBit devA 64 true) 64 = true ∧
      ∀ j, 1 ≤ j → j < 64 → romBit devA j = romBit (setRomBit devA 64 true) j :=
  ⟨by decide, by decide, fun j h1 h2 =>
    upTo (P := fun j => romBit devA j = romBit (setRomBit devA 64 true) j) 63 (by decide) j h1 (by omega)⟩

theorem witness_RegisterReadAnswersTheMap_written :
    (∀ j, j < 8 → romBit midway.romW (8 * (0x00#8).toNat + j + 1) = true) ∧
    (∀ j, j < 8 → romBit midway.romW (8 * (0x07#8).toNat + j + 1) = true) := by decide

theorem witness_RegisterReadAnswersTheMap_unwritten :
    (∃ j, j < 8 ∧ romBit State.reset.romW (8 * (0x00#8).toNat + j + 1) = false) ∧
    (∃ j, j < 8 ∧ romBit (allWritten >>> 1) (8 * (0x07#8).toNat + j + 1) = false) :=
  ⟨⟨0, by decide, by decide⟩, ⟨7, by decide, by decide⟩⟩

theorem witness_RegisterReadAnswersTheMap_offsets :
    (0x07#8).toNat ≤ 7 ∧ (0x08#8).toNat = 0x08 ∧ (0x0C#8).toNat = 0x0C ∧
    0x0D ≤ (0x0D#8).toNat ∧ 0x0D ≤ (0xFF#8).toNat := by decide

theorem witness_ByteReadTakesEightBitsLowFirst :
    ({ State.reset with bus := .oracle ((List.range 8).map (0x80#8).getLsbD ++ [true]) ⟨0, 5⟩ }).bus =
      .oracle ((List.range 8).map (0x80#8).getLsbD ++ [true]) ⟨0, 5⟩ := rfl

/-- A race between two devices at position `k`, both reads of it to come. -/
def race (devices : List Rom) (k : Nat) (stuck : Bool) : RefBus :=
  { refBus devices with race := devices, nw := 8, kb := k, stuck := stuck }

theorem witness_ReferenceReadsAreWiredAnd_stuck :
    (race [devA] 1 true).rp = .id ∧ (race [devA] 1 true).stuck = true := ⟨rfl, rfl⟩

theorem witness_ReferenceReadsAreWiredAnd_empty :
    (race [] 1 false).stuck = false ∧ (race [] 1 false).race = [] := ⟨rfl, rfl⟩

theorem witness_ReferenceReadsAreWiredAnd_agree :
    (race [devE] 64 false).race ≠ [] ∧
    ∀ d ∈ (race [devE] 64 false).race, romBit d (race [devE] 64 false).kb = true :=
  ⟨List.cons_ne_nil _ _, fun d hd => by rw [List.mem_singleton.mp hd]; decide⟩

theorem witness_ReferenceReadsAreWiredAnd_both :
    (∃ d ∈ (race [devA, devE] 64 false).race, romBit d (race [devA, devE] 64 false).kb = true) ∧
    ∃ d ∈ (race [devA, devE] 64 false).race, romBit d (race [devA, devE] 64 false).kb = false :=
  ⟨⟨devE, by decide, by decide⟩, devA, by decide, by decide⟩

theorem witness_ReferenceBusReceivesCommandByte :
    (onDevices [devA, devB]).bus = .reference (refBus [devA, devB]) := rfl

theorem witness_PassStart (s : State) :
    PassStart .first s (clearSession s) Config.searchCommand ∧ PassStart .next s s Config.searchCommand ∧
    PassStart (.search 0) s s 0x00#8 ∧ PassStart (.search 255) s s 0xFF#8 :=
  ⟨.inl ⟨rfl, rfl, rfl⟩, .inr (.inl ⟨rfl, rfl, rfl⟩), .inr (.inr ⟨0, rfl, by decide, rfl, rfl⟩),
    .inr (.inr ⟨255, rfl, by decide, rfl, rfl⟩)⟩

theorem witness_NextIsFirstOnResetSession :
    (session devA 0#7 0#4 false).ld = 0#7 ∧ (session devA 0#7 0#4 false).lfd = 0#4 ∧
    (session devA 0#7 0#4 false).ldf = false := ⟨rfl, rfl, rfl⟩

theorem witness_ExhaustedSearchDoesNothing :
    PassStart .next (session devA 0#7 4#4 true) (session devA 0#7 4#4 true) Config.searchCommand ∧
    (session devA 0#7 4#4 true).ldf = true := ⟨(witness_PassStart _).2.1, rfl⟩

theorem witness_FirstCompletesOnEveryBus :
    ∃ t, exec .first { State.reset with bus := .oracle [false] ⟨0, 0⟩ } = .next t ∧ t.result.res = false :=
  ⟨_, rfl, by decide⟩

theorem witness_NextAndSearchCompleteFromSoundStates :
    let s : State := { midway with inputs := [.command 0x0002#16] }
    PassStart .next s s Config.searchCommand ∧ PassStart (.search 255) s s 0xFF#8 ∧ Sound s ∧
      isHalted s = false :=
  ⟨(witness_PassStart _).2.1, (witness_PassStart _).2.2.2, midway_sound, rfl⟩

theorem witness_NoPresenceClearsSession :
    let s : State := { midway with bus := .oracle [false] ⟨0, 0⟩ }
    PassStart .next s s Config.searchCommand ∧ s.ldf = false ∧ (busReset s).1 = false :=
  ⟨(witness_PassStart _).2.1, rfl, rfl⟩

theorem witness_NoPresenceClearsSession_stuck :
    ({ midway with bus := .reference (race [devA] 1 true) }).bus = .reference (race [devA] 1 true) ∧
    (race [devA] 1 true).stuck = true := ⟨rfl, rfl⟩

theorem witness_CompletedPassFollowsTheRules_found :
    let s : State := onBus twoDiscrepancies midway
    PassStart .next s s Config.searchCommand ∧ s.ldf = false ∧
    s.bus = .oracle (true :: (scriptOf twoDiscrepancies ++ [])) ⟨0, 0⟩ ∧ twoDiscrepancies.length = 64 ∧
    SomebodyUpTo twoDiscrepancies 64 ∧ ReplayReadable s twoDiscrepancies 64 ∧
    ∃ t, exec .next s = .next t ∧ t.rom ≠ 0#64 :=
  ⟨(witness_PassStart _).2.1, rfl, rfl, by decide, upTo _ (by decide), upTo _ (by decide),
    ⟨_, rfl, by decide⟩⟩

theorem witness_CompletedPassFollowsTheRules_zero :
    let s : State := onBus (discrepancies 64) State.reset
    PassStart .first s (clearSession s) Config.searchCommand ∧ (clearSession s).ldf = false ∧
    s.bus = .oracle (true :: (scriptOf (discrepancies 64) ++ [])) ⟨0, 0⟩ ∧ (discrepancies 64).length = 64 ∧
    SomebodyUpTo (discrepancies 64) 64 ∧ ReplayReadable (clearSession s) (discrepancies 64) 64 ∧
    ∃ t, exec .first s = .next t ∧ t.rom = 0#64 :=
  ⟨(witness_PassStart _).1, rfl, rfl, by decide, upTo _ (by decide), upTo _ (by decide),
    ⟨_, rfl, by decide⟩⟩

theorem witness_AbortedPassKeepsTheRestOfRom_1 :
    let s : State := onBus [(true, true)] midway
    PassStart .next s s Config.searchCommand ∧ s.ldf = false ∧
    s.bus = .oracle (true :: (scriptOf [(true, true)] ++ [])) ⟨0, 0⟩ ∧
    SomebodyUpTo [(true, true)] (1 - 1) ∧ nobodyAt [(true, true)] 1 = true ∧
    ReplayReadable s [(true, true)] (1 - 1) :=
  ⟨(witness_PassStart _).2.1, rfl, rfl, upTo _ (by decide), rfl, upTo _ (by decide)⟩

theorem witness_AbortedPassKeepsTheRestOfRom_64 :
    let rs := twoDiscrepancies.take 63 ++ [(true, true)]
    let s : State := onBus rs midway
    PassStart .next s s Config.searchCommand ∧ s.ldf = false ∧
    s.bus = .oracle (true :: (scriptOf rs ++ [])) ⟨0, 0⟩ ∧ rs.length = 64 ∧
    SomebodyUpTo rs (64 - 1) ∧ nobodyAt rs 64 = true ∧ ReplayReadable s rs (64 - 1) :=
  ⟨(witness_PassStart _).2.1, rfl, rfl, by decide, upTo _ (by decide), by decide, upTo _ (by decide)⟩

/-- A session with positions 1 to `n` written and LD = `ld` (R173 keeps such states after a halt only;
TARGET_SETUP and the passes never leave one). -/
def partly (n : Nat) (ld : BitVec 7) : State :=
  { State.reset with romW := allWritten >>> (64 - n), ld := ld }

theorem witness_UnwrittenReplayHalts_1 :
    let s : State := onBus (discrepancies 1) (partly 0 2#7)
    PassBegins .next s s Config.searchCommand ∧ s.ldf = false ∧
    s.bus = .oracle (true :: (scriptOf (discrepancies 1) ++ [])) ⟨0, 0⟩ ∧ (discrepancies 1).length = 1 ∧
    SomebodyUpTo (discrepancies 1) 1 ∧ ReplayReadable s (discrepancies 1) (1 - 1) ∧
    discrepancyAt (discrepancies 1) 1 = true ∧ 1 < s.ld.toNat ∧ romBit s.romW 1 = false :=
  ⟨.inl (witness_PassStart _).2.1, rfl, rfl, rfl, upTo _ (by decide), upTo _ (by decide), rfl, by decide,
    by decide⟩

theorem witness_UnwrittenReplayHalts_63 :
    let s : State := onBus (discrepancies 63) (partly 62 64#7)
    PassBegins .next s s Config.searchCommand ∧ s.ldf = false ∧
    s.bus = .oracle (true :: (scriptOf (discrepancies 63) ++ [])) ⟨0, 0⟩ ∧ (discrepancies 63).length = 63 ∧
    SomebodyUpTo (discrepancies 63) 63 ∧ ReplayReadable s (discrepancies 63) (63 - 1) ∧
    discrepancyAt (discrepancies 63) 63 = true ∧ 63 < s.ld.toNat ∧ romBit s.romW 63 = false :=
  ⟨.inl (witness_PassStart _).2.1, rfl, rfl, by decide, upTo _ (by decide), upTo _ (by decide), by decide,
    by decide, by decide⟩

/-- VERIFY's replay fault, the one a run reaches (95 §4, V4b: ROM never written, a discrepancy). -/
theorem witness_UnwrittenReplayHalts_verify_1 :
    let s : State := onBus (discrepancies 1) State.reset
    let s0 := anchorSession (saveSession s)
    PassBegins .verify s s0 Config.searchCommand ∧ s0.ldf = false ∧
    s.bus = .oracle (true :: (scriptOf (discrepancies 1) ++ [])) ⟨0, 0⟩ ∧
    SomebodyUpTo (discrepancies 1) 1 ∧ ReplayReadable s0 (discrepancies 1) (1 - 1) ∧
    discrepancyAt (discrepancies 1) 1 = true ∧ 1 < s0.ld.toNat ∧ romBit s0.romW 1 = false :=
  ⟨.inr ⟨rfl, rfl, rfl⟩, rfl, rfl, upTo _ (by decide), upTo _ (by decide), rfl, by decide, by decide⟩

theorem witness_UnwrittenReplayHalts_verify_63 :
    let s : State := onBus (discrepancies 63) (partly 62 0#7)
    let s0 := anchorSession (saveSession s)
    PassBegins .verify s s0 Config.searchCommand ∧ s0.ldf = false ∧
    s.bus = .oracle (true :: (scriptOf (discrepancies 63) ++ [])) ⟨0, 0⟩ ∧ (discrepancies 63).length = 63 ∧
    SomebodyUpTo (discrepancies 63) 63 ∧ ReplayReadable s0 (discrepancies 63) (63 - 1) ∧
    discrepancyAt (discrepancies 63) 63 = true ∧ 63 < s0.ld.toNat ∧ romBit s0.romW 63 = false :=
  ⟨.inr ⟨rfl, rfl, rfl⟩, rfl, rfl, by decide, upTo _ (by decide), upTo _ (by decide), by decide, by decide,
    by decide⟩

theorem witness_SearchByteChangesNothingInTheBlock : midway.bus = .oracle [] ⟨0, 0⟩ ∧ 0 < 256 ∧ 255 < 256 :=
  ⟨rfl, by decide, by decide⟩

theorem witness_PassEndsInOneOfFiveOutcomes_found :
    let s : State := onBus twoDiscrepancies midway
    PassStart .next s s Config.searchCommand ∧ s.fault = .none ∧
    ∃ t, exec .next s = .next t ∧ t.fault = .none ∧ t.outcome = some .found :=
  ⟨(witness_PassStart _).2.1, rfl, ⟨_, rfl, by decide, by decide⟩⟩

theorem witness_PassEndsInOneOfFiveOutcomes_exhausted :
    ∃ t, exec .next (session devA 0#7 4#4 true) = .next t ∧ t.fault = .none ∧ t.outcome = some .exhausted :=
  ⟨_, rfl, by decide, by decide⟩

theorem witness_PassEndsInOneOfFiveOutcomes_noPresence :
    ∃ t, exec .next { midway with bus := .oracle [false] ⟨0, 0⟩ } = .next t ∧ t.fault = .none ∧
      t.outcome = some .noPresence := ⟨_, rfl, by decide, by decide⟩

theorem witness_PassEndsInOneOfFiveOutcomes_aborted :
    ∃ t, exec .next (onBus [(true, true)] midway) = .next t ∧ t.fault = .none ∧
      t.outcome = some .aborted := ⟨_, rfl, by decide, by decide⟩

theorem witness_PassEndsInOneOfFiveOutcomes_zeroAddress :
    ∃ t, exec .first (onBus (discrepancies 64) midway) = .next t ∧ t.fault = .none ∧
      t.outcome = some .zeroAddress := ⟨_, rfl, by decide, by decide⟩

theorem witness_PassEndsInOneOfFiveOutcomes_verify :
    ∃ t, exec .verify (onBus (alone devE) midway) = .next t ∧ t.fault = .none ∧ t.outcome = some .found :=
  ⟨_, rfl, by decide, by decide⟩

theorem witness_PassEndsInOneOfFiveOutcomes_verify_aborted :
    ∃ t, exec .verify (onBus [(true, true)] State.reset) = .next t ∧ t.fault = .none ∧
      t.outcome = some .aborted := ⟨_, rfl, by decide, by decide⟩

theorem witness_CommandsIssueAtMost201Events : Instr.WF (.search 255) ∧ Instr.WF .verify := by decide

theorem witness_MicroStepsAgreeWithCommand :
    Instr.WF .verify ∧ midway.ph = .idle ∧ isHalted midway = false := ⟨rfl, rfl, rfl⟩

/-- Every device takes part in a pass with SEARCH_COMMAND (40_bus_primitives.md R97). -/
theorem hasParticipant (devices : List Rom) (d : Rom) (hd : d ∈ devices) (h : devices.Nodup) :
    HasParticipant (refBus devices) Config.searchCommand :=
  ⟨h, rfl, d, hd, by simp [Config.participates]⟩

theorem witness_PassOnReferenceBusFindsADevice :
    let s : State := { midway with bus := .reference (refBus [devC, devD]) }
    PassStart .next s s Config.searchCommand ∧ s.ldf = false ∧ s.bus = .reference (refBus [devC, devD]) ∧
    HasParticipant (refBus [devC, devD]) Config.searchCommand ∧ WrittenBelow s.romW s.ld.toNat :=
  ⟨(witness_PassStart _).2.1, rfl, rfl, hasParticipant _ devC (by decide) (by decide),
    midway_sound.replay rfl⟩

theorem witness_EnumerationIsAscendingTraversalKey :
    (onDevices [devA, devB]).bus = .reference (refBus [devA, devB]) ∧ refBusWF (refBus [devA, devB]) ∧
    (refBus [devA, devB]).devices ≠ [] ∧ (refBus [devA, devB]).stuck = false ∧
    0#64 ∉ (refBus [devA, devB]).devices := ⟨rfl, by decide, by decide, rfl, by decide⟩

theorem witness_EnumerationIsAscendingTraversalKey_halt :
    isHalted (onDevices [devA, devB]) = false ∧ isHalted haltedState = true := ⟨rfl, rfl⟩

theorem witness_FirstDiscardsPositioning :
    ∃ t, exec .first (onBus (alone devE) State.reset) = .next t ∧ t.outcome = some .found :=
  ⟨_, rfl, by decide⟩

theorem witness_TargetedSearchFindsPresentFamily :
    let b := refBus [devA, devC]
    (onDevices [devA, devC]).bus = .reference b ∧ HasParticipant b Config.searchCommand ∧
    ∃ d ∈ b.devices, romByte d 0 = 0x28#8 :=
  ⟨rfl, hasParticipant _ devA (by decide) (by decide), devA, by decide, by decide⟩

theorem witness_VerifyRestoresTheSession :
    let s : State := onBus (alone devE) (session devE 0#7 0#4 true)
    isHalted s = false ∧ ∃ t, exec .verify s = .next t ∧ isHalted t = false ∧
      ∃ u, exec .crcClear t = .next u := ⟨rfl, _, rfl, by decide, _, rfl⟩

theorem witness_VerifyReportsFoundAndSame :
    isHalted (onBus (alone devE) midway) = false ∧ (onBus (alone devE) midway).romW = allWritten ∧
    ∃ t, exec .verify (onBus (alone devE) midway) = .next t ∧ isHalted t = false :=
  ⟨rfl, rfl, _, rfl, by decide⟩

/-- A pass without a device on a ROM never written (43_verify.md R154 case 6). -/
theorem witness_VerifyReportsFoundAndSame_nothing :
    let s : State := { State.reset with bus := .oracle [false] ⟨0, 0⟩ }
    isHalted s = false ∧ s.romW ≠ allWritten ∧ ∃ o u,
      searchCore Config.searchCommand (anchorSession (saveSession { s with ph := .vsave })) = .value o u ∧
      o ≠ .found := ⟨rfl, by decide, _, _, rfl, by decide⟩

/-- A VERIFY of `r` on the reference bus with these devices. -/
def verifying (r : Rom) (devices : List Rom) : State :=
  { session r 0#7 0#4 true with bus := .reference (refBus devices) }

theorem witness_VerifyOnReferenceBusTellsPresence_same :
    let b := refBus [devA, devB]
    (verifying devA [devA, devB]).bus = .reference b ∧ refBusWF b ∧ b.stuck = false ∧ 0#64 ∉ b.devices ∧
    (verifying devA [devA, devB]).romW = allWritten ∧ devA ∈ b.devices ∧
    setRomBit devA 64 true ∉ b.devices := ⟨rfl, by decide, rfl, by decide, rfl, by decide, by decide⟩

theorem witness_VerifyOnReferenceBusTellsPresence_one_at_64 :
    let b := refBus [devE]
    refBusWF b ∧ 0#64 ∉ b.devices ∧ devE ∈ b.devices ∧ romBit devE 64 = true := by decide

theorem witness_VerifyOnReferenceBusTellsPresence_twin :
    let b := refBus [devA, setRomBit devA 64 true]
    refBusWF b ∧ 0#64 ∉ b.devices ∧ devA ∈ b.devices ∧ romBit devA 64 = false ∧
    setRomBit devA 64 true ∈ b.devices := by decide

theorem witness_VerifyOnReferenceBusTellsPresence_absent :
    let b := refBus [devB]
    refBusWF b ∧ 0#64 ∉ b.devices ∧ b.devices ≠ [] ∧ devA ∉ b.devices := by decide

theorem witness_VerifyOnReferenceBusTellsPresence_none :
    refBusWF (refBus []) ∧ 0#64 ∉ (refBus []).devices ∧ (refBus []).devices = [] := by decide

theorem witness_VerifyCompareOfUnwrittenRomHalts :
    let s : State := onBus (alone devE) State.reset
    s.bus = .oracle (true :: (scriptOf (alone devE) ++ [])) ⟨0, 0⟩ ∧ (alone devE).length = 64 ∧
    SomebodyUpTo (alone devE) 64 ∧ ReplayReadable (anchorSession s) (alone devE) 64 ∧
    (∃ k, 1 ≤ k ∧ k ≤ 64 ∧ ruleDirection (anchorSession s) (alone devE) k = true) ∧
    s.romW ≠ allWritten :=
  ⟨rfl, by decide, upTo _ (by decide), upTo _ (by decide), ⟨64, by decide, by decide, by decide⟩,
    by decide⟩

theorem witness_CrcCommandSequenceComputesCrc8 :
    isHalted midway = false ∧ isHalted haltedState = true := ⟨rfl, rfl⟩

theorem witness_RomCrcCheckFormsAgree :
    isHalted midway = false ∧ midway.romW = allWritten ∧ isHalted haltedState = true := ⟨rfl, rfl, rfl⟩

theorem witness_RomCrcCheckFormsAgree_byte_0 :
    isHalted State.reset = false ∧ 0 < 8 ∧ romByte State.reset.romW 0 ≠ 0xFF#8 ∧
    ∀ j, j < 0 → romByte State.reset.romW j = 0xFF#8 :=
  ⟨rfl, by decide, by decide, fun _ h => absurd h (Nat.not_lt_zero _)⟩

theorem witness_RomCrcCheckFormsAgree_byte_7 :
    isHalted (partly 63 0#7) = false ∧ 7 < 8 ∧ romByte (partly 63 0#7).romW 7 ≠ 0xFF#8 ∧
    ∀ j, j < 7 → romByte (partly 63 0#7).romW j = 0xFF#8 := ⟨rfl, by decide, by decide, by decide⟩

theorem witness_EnumeratorIgnoresCrc :
    Instr.WF .verify ∧ Instr.mnemonic .verify ≠ .crcClear ∧ Instr.mnemonic .verify ≠ .crcUpdate := by decide

theorem witness_HaltedBlockTakesNoStepUntilReset :
    isHalted haltedState = true ∧ isHalted (facing .hardwareReset haltedState) = true ∧
    isHalted (facing (.command 0x0001#16) haltedState) = true ∧
    isHalted (facing (.read 0x0C#8) haltedState) = true ∧
    isHalted (facing (.busChange (.reference (refBus [devA]))) haltedState) = true :=
  ⟨rfl, rfl, rfl, rfl, rfl⟩

theorem witness_HardwareResetFromAnyState :
    (facing .hardwareReset haltedState).inputs = [.hardwareReset] := rfl

theorem witness_ResetStateAsStated : (0x00#8).toNat ≤ 7 ∧ (0x07#8).toNat ≤ 7 := by decide

theorem witness_IdleBlockWaits : midway.inputs = [] ∧ isHalted midway = false := ⟨rfl, rfl⟩

theorem witness_StepRunsTheDecodedCommand_completes :
    let s := facing (.command 0xFF08#16) midway
    isHalted s = false ∧ decode 0xFF08#16 = .ok (.crcUpdate 255) ∧
    ∃ t, exec (.crcUpdate 255) { s with inputs := [] } = .next t ∧ isHalted t = false :=
  ⟨rfl, rfl, _, rfl, rfl⟩

theorem witness_StepRunsTheDecodedCommand_faults :
    let s := facing (.command 0x0002#16) (onBus (discrepancies 1) (partly 0 2#7))
    isHalted s = false ∧ decode 0x0002#16 = .ok .next ∧
    ∃ t, exec .next { s with inputs := [] } = .next t ∧ isHalted t = true := ⟨rfl, rfl, _, rfl, by decide⟩

theorem witness_StepKeepsSound :
    Sound { midway with inputs := [.command 0x0002#16] } ∧
    ∃ t, step { midway with inputs := [.command 0x0002#16] } = .next t := ⟨midway_sound, _, rfl⟩

theorem witness_ExhaustionEndsOnlyByThreeCommands :
    let s := session devA 0#7 4#4 true
    s.ldf = true ∧ isHalted s = false ∧
    (∃ t, exec .resetSearch s = .next t ∧ isHalted t = false ∧ t.ldf = false) ∧
    (∃ t, exec .next s = .next t ∧ isHalted t = false) ∧
    Instr.mnemonic (.search 0) = .search := ⟨rfl, rfl, ⟨_, rfl, rfl, rfl⟩, ⟨_, rfl, rfl⟩, rfl⟩

theorem witness_WrittenBitsStayWritten :
    romBit midway.romW 1 = true ∧ romBit midway.romW 64 = true ∧
    (∃ t, exec .familySkipSetup midway = .next t) ∧ ∃ t, exec .first midway = .next t :=
  ⟨by decide, by decide, ⟨_, rfl⟩, ⟨_, rfl⟩⟩

theorem witness_CommandsFaultOnlyOnUnwrittenBits :
    (∃ t, exec .next (onBus (discrepancies 1) (partly 0 2#7)) = .next t ∧ isHalted t = true) ∧
    isHalted midway = false ∧ midway.romW = allWritten := ⟨⟨_, rfl, by decide⟩, rfl, rfl⟩

/-- Unwritten ROM bits, transients, shadows and FAULT_INFO may differ. -/
theorem witness_UnspecifiedFieldsNeverMatter :
    Alike (facing (.command 0x0001#16) State.reset)
      { facing (.command 0x0001#16) State.reset with
          rom := 0xFF#64, lz := 5#7, dir := true, sRom := 1#64, faultInfo := .offset 0x0D#8 } ∧
    ∃ t, step (facing (.command 0x0001#16) State.reset) = .next t := by
  refine ⟨⟨rfl, fun k _ _ h => ?_, rfl, rfl, rfl, rfl, rfl, rfl, rfl, fun h => ?_, rfl, rfl, rfl, rfl⟩,
    _, rfl⟩
  · exact absurd h (by simp [romBit, facing, State.reset])
  · exact absurd h (by decide)

theorem witness_HostReadsWriteNoRegister :
    (facing (.read 0x0C#8) midway).inputs = [.read 0x0C#8] ∧
    isHalted (facing (.read 0x0C#8) haltedState) = true ∧ isHalted (facing (.read 0x0C#8) midway) = false ∧
    regRead 0x0C#8 (facing (.read 0x0C#8) midway) = .ok 0x00#8 ∧
    regRead 0x0D#8 (facing (.read 0x0D#8) midway) = .error (.unmappedRegister, .offset 0x0D#8) :=
  ⟨rfl, rfl, rfl, rfl, rfl⟩

theorem witness_InstancesAreIndependent :
    ∃ z, systemStep ⟨[facing (.command 0x0007#16) midway, State.reset]⟩ ⟨0, by decide⟩ = .next z ∧
      (1 : Nat) ≠ 0 := ⟨_, rfl, by decide⟩

theorem witness_UnencodableImmediateIsRefused : 256 ≤ 256 := by decide

end Sys2Proof.Tests
end

section
/-!
PROOF. Bit positions of a ROM code (spec/00_scope.md R6 to R8): the byte a search position lies in, the
ROM code of its eight bytes, and the traversal key as a word.
-/

namespace Sys2Proof.Machine

/-! ### Bytes of a ROM code (R6, R7) -/

/-- Bit `j` of byte `i` is bit `8*i + j` of the address value. -/
theorem getLsbD_romByte (a : Rom) (i j : Nat) :
    (romByte a i).getLsbD j = (decide (j < 8) && a.getLsbD (8 * i + j)) := by
  rw [romByte, BitVec.getLsbD_extractLsb']

theorem byteIndex_le (k : Nat) (h64 : k ≤ 64) : byteIndex k ≤ 7 := by
  unfold byteIndex
  omega

theorem bitNo_lt (k : Nat) : bitNo k < 8 := Nat.mod_lt _ (by decide)

theorem byteIndex_bitNo (k : Nat) : 8 * byteIndex k + bitNo k = k - 1 := Nat.div_add_mod _ _

theorem romBit_eq_bit_of_byte (a : Rom) (k : Nat) :
    romBit a k = (romByte a (byteIndex k)).getLsbD (bitNo k) := by
  rw [getLsbD_romByte, byteIndex_bitNo, decide_eq_true (bitNo_lt k), Bool.true_and, romBit]

/-- The first byte holds the eight low bits; the later bytes are moved up by eight. -/
theorem getLsbD_romOfBytes_cons (b : Byte) (bs : List Byte) (j : Nat) (hj : j < 64) :
    (romOfBytes (b :: bs)).getLsbD j =
      if j < 8 then b.getLsbD j else (romOfBytes bs).getLsbD (j - 8) := by
  rw [romOfBytes, BitVec.getLsbD_or, BitVec.getLsbD_shiftLeft, BitVec.getLsbD_setWidth]
  split
  · next h8 => simp only [hj, h8, decide_true, Bool.not_true, Bool.and_false, Bool.false_and,
      Bool.false_or, Bool.true_and]
  · next h8 =>
    have hb : b.getLsbD j = false := BitVec.getLsbD_of_ge b j (by omega)
    simp only [hb, hj, h8, decide_true, decide_false, Bool.not_false, Bool.true_and, Bool.and_false,
      Bool.or_false]

/-- The word of `n` bytes from byte `i` on is the address value from bit `8*i` on, cut to `8*n` bits. -/
theorem getLsbD_romOfBytes_romByte (a : Rom) (n i j : Nat) (hj : j < 64) :
    (romOfBytes ((List.range' i n).map (romByte a))).getLsbD j =
      (decide (j < 8 * n) && a.getLsbD (8 * i + j)) := by
  induction n generalizing i j with
  | zero => simp [romOfBytes]
  | succ n ih =>
    rw [List.range'_succ, List.map_cons, getLsbD_romOfBytes_cons _ _ j hj]
    split
    · next h8 =>
      have hn : j < 8 * (n + 1) := by omega
      rw [getLsbD_romByte, decide_eq_true h8, decide_eq_true hn]
    · next h8 =>
      have hpos : 8 * (i + 1) + (j - 8) = 8 * i + j := by omega
      have hcut : j - 8 < 8 * n ↔ j < 8 * (n + 1) := by omega
      simp only [ih (i + 1) (j - 8) (by omega), hpos, hcut]

/-- R7: the eight bytes of a ROM code give it back. -/
theorem romOfBytes_romBytes (a : Rom) : romOfBytes (romBytes a) = a := by
  apply BitVec.eq_of_getLsbD_eq
  intro j hj
  have hcut : j < 8 * 8 := hj
  rw [romBytes, List.range_eq_range', getLsbD_romOfBytes_romByte a 8 0 j hj, decide_eq_true hcut]
  simp

/-! ### The traversal key (R8) -/

/-- Search position `k` is bit `64 - k` of the reversed address value. -/
theorem testBit_reverse (a : Rom) (k : Nat) (h1 : 1 ≤ k) (h64 : k ≤ 64) :
    a.reverse.toNat.testBit (64 - k) = romBit a k := by
  have hpos : 64 - 1 - (64 - k) = k - 1 := by omega
  have hlt : 64 - k < 64 := by omega
  rw [BitVec.testBit_toNat, BitVec.getLsbD_reverse, BitVec.getMsbD, hpos, decide_eq_true hlt,
    Bool.true_and, romBit]

/-- Clearing the low `m + 1` bits and adding bit `m` back clears the low `m` bits. -/
theorem clear_low_bits_add_testBit (r m : Nat) :
    r / 2 ^ (m + 1) * 2 ^ (m + 1) + (r.testBit m).toNat * 2 ^ m = r / 2 ^ m * 2 ^ m := by
  calc r / 2 ^ (m + 1) * 2 ^ (m + 1) + (r.testBit m).toNat * 2 ^ m
      = (2 * (r / 2 ^ m / 2) + r / 2 ^ m % 2) * 2 ^ m := by
        rw [Nat.toNat_testBit, pow_succ, Nat.div_div_eq_div_mul]
        ring
    _ = r / 2 ^ m * 2 ^ m := by rw [Nat.div_add_mod]

/-- The partial sum over positions 1 to `n` is the reversed address value with its low `64 - n` bits
cleared. -/
theorem traversalKeyUpTo_eq (a : Rom) (n : Nat) (hn : n ≤ 64) :
    traversalKeyUpTo a n = a.reverse.toNat / 2 ^ (64 - n) * 2 ^ (64 - n) := by
  induction n with
  | zero =>
    have hlt : a.reverse.toNat < 2 ^ 64 := a.reverse.isLt
    rw [traversalKeyUpTo, Nat.div_eq_of_lt hlt, Nat.zero_mul]
  | succ n ih =>
    have hexp : 64 - n = 64 - (n + 1) + 1 := by omega
    rw [traversalKeyUpTo, ih (by omega), ← testBit_reverse a (n + 1) (by omega) hn, hexp,
      clear_low_bits_add_testBit]

theorem traversalKey_eq_reverse (a : Rom) : traversalKey a = a.reverse.toNat := by
  rw [traversalKey, traversalKeyUpTo_eq a 64 (le_refl 64)]
  simp

/-- The first position at which two codes differ decides their order: it is the highest bit at which
the reversed address values differ. -/
theorem traversalKey_lt_of_first_difference (a b : Rom) (k : Nat) (h1 : 1 ≤ k) (h64 : k ≤ 64)
    (hsame : ∀ j, 1 ≤ j → j < k → romBit a j = romBit b j)
    (ha : romBit a k = false) (hb : romBit b k = true) : traversalKey a < traversalKey b := by
  rw [traversalKey_eq_reverse, traversalKey_eq_reverse]
  apply Nat.lt_of_testBit (64 - k)
  · rw [testBit_reverse a k h1 h64, ha]
  · rw [testBit_reverse b k h1 h64, hb]
  · intro i hi
    by_cases hlt : i < 64
    · have hpos : i = 64 - (64 - i) := by omega
      rw [hpos, testBit_reverse a _ (by omega) (by omega), testBit_reverse b _ (by omega) (by omega)]
      exact hsame (64 - i) (by omega) (by omega)
    · rw [BitVec.testBit_toNat, BitVec.testBit_toNat, BitVec.getLsbD_of_ge _ i (by omega),
        BitVec.getLsbD_of_ge _ i (by omega)]

/-! ### The obligations -/

/-- Settles O8: the byte and bit of a position recombine to it, and the bytes to the code. -/
theorem searchPositionIsOneBitOfOneByte : Obligations.SearchPositionIsOneBitOfOneByte := by
  refine ⟨fun a k h1 h64 => ⟨byteIndex_le k h64, Nat.le_of_lt_succ (bitNo_lt k), ?_,
    romBit_eq_bit_of_byte a k⟩, romOfBytes_romBytes⟩
  rw [byteIndex_bitNo, Nat.sub_add_cancel h1]

/-- Settles O9: the key is the reversed word, whose highest differing bit is the first differing
position. -/
theorem traversalKeyIsReversedAddress : Obligations.TraversalKeyIsReversedAddress :=
  ⟨traversalKey_eq_reverse, traversalKey_lt_of_first_difference⟩

end Sys2Proof.Machine
end

section
/-!
PROOF. What a command leaves, said once for the statements of spec/10_state.md: the ranges and the
written-mask it keeps (R22, R26), the session a pass ends with (41_search.md R114 to R124), and how VERIFY
ends (43_verify.md R150 to R153).
-/

namespace Sys2Proof.Machine

/-! ### The ranges and the written-mask -/

/-- Every position written in the mask `v` is written in `w` (10_state.md R22). -/
def MaskGrows (v w : Rom) : Prop := ∀ k, 1 ≤ k → k ≤ 64 → romBit v k = true → romBit w k = true

/-- From `s` to `t` the ranges of R26 are kept and no ROM_W bit is cleared. -/
structure KeepsBounds (s t : State) : Prop where
  grows : MaskGrows s.romW t.romW
  range : InRange s → InRange t

theorem KeepsBounds.trans {s t u : State} (h : KeepsBounds s t) (g : KeepsBounds t u) : KeepsBounds s u :=
  ⟨fun k h1 h64 hk => g.grows k h1 h64 (h.grows k h1 h64 hk), fun hr => g.range (h.range hr)⟩

theorem maskGrows_refl (w : Rom) : MaskGrows w w := fun _ _ _ h => h

theorem KeepsBounds.refl (s : State) : KeepsBounds s s := ⟨maskGrows_refl _, id⟩

/-- An update that does not touch ROM_W keeps the bounds when it keeps the ranges. -/
theorem keepsBounds_of_range {s t : State} (hw : t.romW = s.romW) (hr : InRange s → InRange t) :
    KeepsBounds s t := ⟨hw ▸ maskGrows_refl _, hr⟩

theorem maskGrows_allWritten (w : Rom) : MaskGrows w allWritten := fun k h1 h64 _ =>
  romBit_allWritten k h1 h64

theorem maskGrows_setRomBit (w : Rom) (K : Nat) (h1 : 1 ≤ K) (h64 : K ≤ 64) :
    MaskGrows w (setRomBit w K true) := by
  intro k hk1 _ hk
  by_cases h : k = K
  · rw [h, romBit_setRomBit_self w K true h1 h64]
  · rw [romBit_setRomBit_other w K k true h1 hk1 h, hk]

/-! ### The positions below a bound -/

theorem writtenBelow_zero (w : Rom) : WrittenBelow w 0 := fun _ _ h => absurd h (Nat.not_lt_zero _)

theorem writtenBelow_allWritten (n : Nat) (hn : n ≤ 65) : WrittenBelow allWritten n := fun k h1 hk =>
  romBit_allWritten k h1 (by omega)

theorem eq_allWritten_of_writtenBelow {w : Rom} (h : WrittenBelow w 65) : w = allWritten :=
  eq_allWritten w fun k h1 h64 => h k h1 (by omega)

/-- When all positions below `K` are written, writing `K` moves the bound up by one. -/
theorem writtenBelow_setRomBit {w : Rom} {K : Nat} (h1 : 1 ≤ K) (h64 : K ≤ 64) (h : WrittenBelow w K) :
    WrittenBelow (setRomBit w K true) (K + 1) := by
  intro k hk1 hk
  by_cases hkK : k = K
  · rw [hkK, romBit_setRomBit_self w K true h1 h64]
  · rw [romBit_setRomBit_other w K k true h1 hk1 hkK, h k hk1 (by omega)]

/-! ### One position -/

@[simp] theorem withDirection_romW (K : Nat) (d z : Bool) (s : State) :
    (withDirection K d z s).romW = s.romW := by
  unfold withDirection
  split <;> rfl

@[simp] theorem withDirection_dir (K : Nat) (d z : Bool) (s : State) : (withDirection K d z s).dir = d := by
  unfold withDirection
  split <;> rfl

@[simp] theorem writeDirection_romW (K : Nat) (s : State) :
    (writeDirection K s).romW = setRomBit s.romW K true := rfl

theorem afterReads_keepsBounds (K : Nat) (h64 : K ≤ 64) (s : State) : KeepsBounds s (afterReads K s) :=
  keepsBounds_of_range rfl fun h =>
    { h with k := (Nat.mod_le _ _).trans h64 }

theorem withDirection_keepsBounds (K : Nat) (h64 : K ≤ 64) (d z : Bool) (s : State) :
    KeepsBounds s (withDirection K d z s) := by
  refine keepsBounds_of_range (withDirection_romW K d z s) fun h => ?_
  have hlz : (BitVec.ofNat 7 K).toNat ≤ 64 := (Nat.mod_le _ _).trans h64
  unfold withDirection
  split
  · refine { h with lz := hlz, lfd := ?_ }
    rw [noteZero_lfd]
    split
    · next h8 => exact (Nat.mod_le _ _).trans h8
    · exact h.lfd
  · exact { h with }

theorem writeDirection_keepsBounds (K : Nat) (h1 : 1 ≤ K) (h64 : K ≤ 64) (s : State) :
    KeepsBounds s (writeDirection K s) :=
  ⟨maskGrows_setRomBit s.romW K h1 h64, fun h => { h with }⟩

/-- A position whose direction is written keeps the bounds. -/
theorem directed_keepsBounds (K : Nat) (h1 : 1 ≤ K) (h64 : K ≤ 64) (d z : Bool) (s : State) :
    KeepsBounds s (writeDirection K (withDirection K d z (afterReads K s))) :=
  ((afterReads_keepsBounds K h64 s).trans (withDirection_keepsBounds K h64 d z _)).trans
    (writeDirection_keepsBounds K h1 h64 _)

theorem discStep_keepsBounds (K : Nat) (h1 : 1 ≤ K) (h64 : K ≤ 64) (s : State) :
    KeepsBounds s (flowState (discStep K s)) := by
  obtain ⟨-, -, h⟩ | ⟨-, h⟩ | ⟨-, -, -, h⟩ | ⟨-, -, -, -, h⟩ := discStep_cases K s <;> rw [h]
  · exact (afterReads_keepsBounds K h64 s).trans (keepsBounds_of_range rfl fun h => { h with })
  · exact directed_keepsBounds K h1 h64 _ _ s
  · exact directed_keepsBounds K h1 h64 _ _ s
  · exact (afterReads_keepsBounds K h64 s).trans (keepsBounds_of_range rfl fun h => { h with })

/-- A position that goes on has written its bit; one that does not has set OK to 0 (R118). -/
theorem discStep_value_cases {K : Nat} {s t : State} {r : Resolution} (h : discStep K s = .value r t) :
    (r = .abort ∧ t.ok = false) ∨ (r = .go ∧ t.romW = setRomBit s.romW K true) := by
  obtain ⟨-, -, g⟩ | ⟨-, g⟩ | ⟨-, -, -, g⟩ | ⟨-, -, -, -, g⟩ := discStep_cases K s <;> rw [g] at h <;>
    cases h
  · exact .inl ⟨rfl, rfl⟩
  · exact .inr ⟨rfl, by simp⟩
  · exact .inr ⟨rfl, by simp⟩

/-! ### The 64 positions -/

theorem positions_keepsBounds (n : Nat) (hn : n ≤ 64) (s : State) :
    KeepsBounds s (flowState (positions n s)) := by
  induction n generalizing s with
  | zero => exact KeepsBounds.refl s
  | succ n ih =>
    have h := discStep_keepsBounds (64 - n) (by omega) (by omega) s
    unfold positions
    cases hd : discStep (64 - n) s with
    | raised t => simpa [hd] using h
    | value r t =>
      rw [hd] at h
      cases r with
      | abort => exact h
      | go => exact h.trans (ih (by omega) t)

/-- Positions that end with OK = 1 have all been written, those before them included (R124). -/
theorem positions_writtenBelow (n : Nat) (hn : n ≤ 64) {s t : State} {r : Resolution}
    (hs : WrittenBelow s.romW (65 - n)) (h : positions n s = .value r t) (hok : t.ok = true) :
    WrittenBelow t.romW 65 := by
  induction n generalizing s with
  | zero => cases h; exact hs
  | succ n ih =>
    unfold positions at h
    cases hd : discStep (64 - n) s with
    | raised u => rw [hd] at h; cases h
    | value q u =>
      rw [hd] at h
      obtain ⟨rfl, hab⟩ | ⟨rfl, hw⟩ := discStep_value_cases hd
      · cases h
        rw [hab] at hok
        cases hok
      · have hpos : 65 - (n + 1) = 64 - n := by omega
        have hnext : 64 - n + 1 = 65 - n := by omega
        rw [hpos] at hs
        refine ih (by omega) ?_ h
        rw [hw, ← hnext]
        exact writtenBelow_setRomBit (by omega) (by omega) hs

/-- Positions 1 to 64 that end with OK = 1 have written the whole of ROM (R124). -/
theorem positions_all_written {s t : State} {r : Resolution} (h : positions 64 s = .value r t)
    (hok : t.ok = true) : t.romW = allWritten :=
  eq_allWritten_of_writtenBelow
    (positions_writtenBelow 64 le_rfl (fun k h1 hk => absurd hk (by omega)) h hok)

/-! ### The pass -/

/-- After the `RST` of a pass, in phase RST (R114 step 2). -/
def afterPresence (s : State) : State := (busReset { s with ph := .rst, outcome := none }).2

/-- The state in which the 64 positions of a pass start: presence seen, the command byte sent, LZ and OK
set (R114 step 3, R117). -/
def passStart (cmd : Byte) (s : State) : State :=
  { busWriteByte cmd (afterPresence s) with lz := 0#7, ok := true }

/-- How a pass goes on from the end of its positions. -/
def concludePositions : Flow Resolution → Flow PassOutcome
  | .raised t => .raised t
  | .value _ t => concludePass t

/-- SEARCH_CORE (R114) by its three beginnings: exhausted, no presence, the positions. -/
theorem searchCore_eq (cmd : Byte) (s : State) : searchCore cmd s =
    if s.ldf then passEnds .exhausted s
    else if (onReset s.bus).1 then concludePositions (positions 64 (passStart cmd s))
    else passEnds .noPresence (clearSession (afterPresence s)) := rfl

/-- A pass started while LDF = 1 (R115). -/
theorem searchCore_exhausted (cmd : Byte) {s : State} (h : s.ldf = true) :
    searchCore cmd s = .value .exhausted { s with outcome := some .exhausted, ph := .fin } := by
  rw [searchCore_eq, if_pos h, passEnds]

theorem afterPresence_keepsBounds (s : State) : KeepsBounds s (afterPresence s) :=
  keepsBounds_of_range rfl fun h => { h with }

theorem passStart_keepsBounds (cmd : Byte) (s : State) : KeepsBounds s (passStart cmd s) := by
  obtain ⟨bus, history, h⟩ := writeBitsFrom_keeps cmd 8 0 (afterPresence s)
  rw [passStart, busWriteByte, h]
  exact keepsBounds_of_range rfl fun h => { h with lz := Nat.zero_le _ }

theorem clearSession_keepsBounds (s : State) : KeepsBounds s (clearSession s) :=
  keepsBounds_of_range rfl fun h => { h with ld := Nat.zero_le _, lfd := Nat.zero_le _ }

/-- Completion or rejection of a pass: a device is found only with OK = 1, and otherwise the session is
cleared (R121, R122). -/
theorem concludePass_cases (s : State) : ∃ o t, concludePass s = .value o t ∧ KeepsBounds s t ∧
    t.romW = s.romW ∧ (o = .found ∧ s.ok = true ∨ o ≠ .found ∧ SessionCleared t) := by
  have hclear := fun o : PassOutcome => (clearSession_keepsBounds s).trans
    (u := { clearSession s with outcome := some o, ph := .fin }) (keepsBounds_of_range rfl fun h => { h with })
  cases hok : s.ok
  · exact ⟨_, _, concludePass_aborted s hok, hclear _, rfl, .inr ⟨by decide, rfl, rfl, rfl⟩⟩
  · by_cases hr : s.rom = 0#64
    · exact ⟨_, _, concludePass_zero s hok hr, hclear _, rfl, .inr ⟨by decide, rfl, rfl, rfl⟩⟩
    · exact ⟨_, _, concludePass_found s hok hr, keepsBounds_of_range rfl fun h => { h with ld := h.lz },
        rfl, .inl ⟨rfl, rfl⟩⟩

theorem searchCore_keepsBounds (cmd : Byte) (s : State) :
    KeepsBounds s (flowState (searchCore cmd s)) := by
  rw [searchCore_eq]
  split_ifs
  · exact keepsBounds_of_range rfl fun h => { h with }
  · have hp := (passStart_keepsBounds cmd s).trans (positions_keepsBounds 64 le_rfl (passStart cmd s))
    cases hf : positions 64 (passStart cmd s) with
    | raised t =>
      rw [hf] at hp
      exact hp
    | value r t =>
      obtain ⟨o, u, hu, hb, -⟩ := concludePass_cases t
      rw [hf] at hp
      rw [concludePositions, hu]
      exact hp.trans hb
  · exact ((afterPresence_keepsBounds s).trans (clearSession_keepsBounds _)).trans
      (keepsBounds_of_range rfl fun h => { h with })

/-- The session a pass returns with: as it was when exhausted (R115), cleared when it found nothing (R116,
R122), every bit written when it found a device (R124). -/
theorem searchCore_value_cases {cmd : Byte} {s t : State} {o : PassOutcome}
    (h : searchCore cmd s = .value o t) :
    (o = .exhausted ∧ KeepsSession s t) ∨ (o ≠ .found ∧ SessionCleared t) ∨
      (o = .found ∧ t.romW = allWritten) := by
  rw [searchCore_eq] at h
  split_ifs at h
  · cases h
    exact .inl ⟨rfl, rfl, rfl, rfl, rfl, rfl⟩
  · cases hf : positions 64 (passStart cmd s) with
    | raised u => rw [hf] at h; cases h
    | value r u =>
      obtain ⟨o', v, hv, -, hw, hend⟩ := concludePass_cases u
      rw [hf, concludePositions, hv] at h
      cases h
      obtain ⟨rfl, hok⟩ | hclear := hend
      · exact .inr (.inr ⟨rfl, hw.trans (positions_all_written hf hok)⟩)
      · exact .inr (.inl hclear)
  · cases h
    exact .inr (.inl ⟨by decide, rfl, rfl, rfl⟩)

/-- A pass that found a device has written every bit of ROM. -/
theorem searchCore_found_romW {cmd : Byte} {s t : State} (h : searchCore cmd s = .value .found t) :
    t.romW = allWritten := by
  obtain ⟨ho, -⟩ | ⟨ho, -⟩ | ⟨-, hw⟩ := searchCore_value_cases h
  · cases ho
  · exact absurd rfl ho
  · exact hw

/-! ### The commands -/

/-- The state VERIFY's pass starts from: the session saved and anchored (43_verify.md R150, R151). -/
def verifyStart (s : State) : State := anchorSession (saveSession { s with ph := .vsave })

/-- The state a search command leaves after a pass from `s`. -/
def afterSearch (cmd : Byte) (s : State) : State := endSearch (searchCore cmd s)

/-- The state VERIFY leaves. -/
def afterVerify (s : State) : State := endVerify (searchCore Config.searchCommand (verifyStart s))

/-- What each command does to the state; `exec_next_iff` ties it to `exec`. -/
def effect : Instr → State → State
  | .resetSearch, s => clearSession s
  | .first, s => afterSearch Config.searchCommand (clearSession s)
  | .next, s => afterSearch Config.searchCommand s
  | .search n, s => afterSearch (BitVec.ofNat 8 n) s
  | .targetSetup n, s => targetSetup (BitVec.ofNat 8 n) s
  | .familySkipSetup, s => familySkip s
  | .verify, s => afterVerify s
  | .crcClear, s => { s with crc := 0x00#8 }
  | .crcUpdate n, s => { s with crc := crcStep s.crc (BitVec.ofNat 8 n) }

theorem wf_iff_of_operand {i : Instr} {n : Nat} (h : i.operand = some n) : i.WF ↔ n < 256 := by
  simp [Instr.WF, Instr.illFormed, h, immOk]

/-- An immediate's meaning answers a state exactly when the immediate has an encoding (30_encoding.md R77). -/
theorem withImm8_next_iff (n : Nat) (f : Byte → State) (t : State) :
    withImm8 n (fun b => .next (f b)) = .next t ↔ n < 256 ∧ t = f (BitVec.ofNat 8 n) := by
  by_cases h : n < 256
  · simp [withImm8_of_lt h, h, eq_comm]
  · simp [withImm8_of_le (Nat.not_lt.mp h), h]

/-- Every command that has an encoding answers its effect, from every state. -/
theorem exec_next_iff (i : Instr) (s t : State) : exec i s = .next t ↔ i.WF ∧ t = effect i s := by
  cases i with
  | search n =>
    rw [wf_iff_of_operand rfl]
    exact withImm8_next_iff n (fun b => afterSearch b s) t
  | targetSetup n =>
    rw [wf_iff_of_operand rfl]
    exact withImm8_next_iff n (fun b => targetSetup b s) t
  | crcUpdate n =>
    rw [wf_iff_of_operand rfl]
    exact withImm8_next_iff n (fun b => { s with crc := crcStep s.crc b }) t
  | _ => exact ⟨fun h => ⟨rfl, (Host.Outcome.next.inj h).symm⟩, fun ⟨_, h⟩ => h ▸ rfl⟩

/-- How a search command ends: halted at a replay with RESULT as it was, or returned with its pass's
outcome in RES. -/
theorem afterSearch_cases (cmd : Byte) (s : State) :
    (∃ t, searchCore cmd s = .raised t ∧ afterSearch cmd s = t ∧ t.fault = .unwrittenRead ∧
      t.result = s.result ∧ faultInfoFits t.fault t.faultInfo = true) ∨
    ∃ o t, searchCore cmd s = .value o t ∧
      afterSearch cmd s = { t with result := searchResult (isFound o), ph := .idle } := by
  have hkeep := searchCore_passKeeps cmd s
  unfold afterSearch
  cases hc : searchCore cmd s with
  | raised t =>
    rw [hc] at hkeep
    obtain ⟨hf, K, -, hi, -⟩ := searchCore_raised cmd s t hc
    exact .inl ⟨t, rfl, rfl, hf, hkeep.result, by rw [hf, hi]; rfl⟩
  | value o t => exact .inr ⟨o, t, rfl, rfl⟩

theorem verifyStart_keepsBounds (s : State) : KeepsBounds s (verifyStart s) :=
  keepsBounds_of_range rfl fun h =>
    { h with ld := le_refl 64, sLd := h.ld, sLfd := h.lfd }

theorem endVerify_of_value {o : PassOutcome} {t u : State} {same : Bool}
    (h : compareSaved (isFound o) t = .value same u) : endVerify (.value o t) =
      { restoreSession u with result := verifyResult (isFound o) same, ph := .idle } := by
  rw [endVerify, h]

theorem endVerify_of_raised {o : PassOutcome} {t u : State} (h : compareSaved (isFound o) t = .raised u) :
    endVerify (.value o t) = u := by
  rw [endVerify, h]

/-- How VERIFY ends: halted, at a replay or at the compare, with RESULT as it was, or returned with the
session restored (43_verify.md R150, R152, R153). -/
theorem afterVerify_cases (s : State) :
    (∃ t, KeepsBounds s t ∧ afterVerify s = t ∧ t.fault = .unwrittenRead ∧ t.result = s.result ∧
      faultInfoFits t.fault t.faultInfo = true) ∨
    ∃ o t same, searchCore Config.searchCommand (verifyStart s) = .value o t ∧
      (same = true → isFound o = true) ∧
      afterVerify s = { restoreSession t with result := verifyResult (isFound o) same, ph := .idle } := by
  have hkeep := searchCore_passKeeps Config.searchCommand (verifyStart s)
  have hb := (verifyStart_keepsBounds s).trans (searchCore_keepsBounds Config.searchCommand (verifyStart s))
  unfold afterVerify
  cases hc : searchCore Config.searchCommand (verifyStart s) with
  | raised t =>
    rw [hc] at hkeep hb
    obtain ⟨hf, K, -, hi, -⟩ := searchCore_raised _ _ t hc
    exact .inl ⟨t, hb, rfl, hf, hkeep.result, by rw [hf, hi]; rfl⟩
  | value o t =>
    rw [hc] at hkeep hb
    obtain ⟨same, hcmp, hsame⟩ | ⟨-, -, hcmp⟩ := compareSaved_cases (isFound o) t
    · exact .inr ⟨o, t, same, rfl, hsame, endVerify_of_value hcmp⟩
    · exact .inl ⟨raiseFault .unwrittenRead (.verify t.sRomW) t,
        hb.trans (keepsBounds_of_range rfl fun h => { h with }), endVerify_of_raised hcmp, rfl,
        hkeep.result, rfl⟩

/-- The restore of a VERIFY that returns gives the session back (43_verify.md R153). -/
theorem restoreSession_keepsSession {s t : State} {o : PassOutcome}
    (h : searchCore Config.searchCommand (verifyStart s) = .value o t) :
    KeepsSession s (restoreSession t) := by
  have hkeep := searchCore_passKeeps Config.searchCommand (verifyStart s)
  rw [h] at hkeep
  exact ⟨hkeep.sRom, hkeep.sRomW, hkeep.sLd, hkeep.sLfd, hkeep.sLdf⟩

theorem afterSearch_keepsBounds (cmd : Byte) (s : State) : KeepsBounds s (afterSearch cmd s) := by
  have hb := searchCore_keepsBounds cmd s
  obtain ⟨t, hc, ht, -⟩ | ⟨o, t, hc, ht⟩ := afterSearch_cases cmd s <;> rw [hc] at hb <;> rw [ht]
  · exact hb
  · exact hb.trans (keepsBounds_of_range rfl fun h => { h with })

theorem afterVerify_keepsBounds (s : State) : KeepsBounds s (afterVerify s) := by
  obtain ⟨t, hb, ht, -⟩ | ⟨o, t, same, hc, -, ht⟩ := afterVerify_cases s <;> rw [ht]
  · exact hb
  · have hb := (verifyStart_keepsBounds s).trans
      (searchCore_keepsBounds Config.searchCommand (verifyStart s))
    rw [hc] at hb
    have hrestored := restoreSession_keepsSession hc
    refine keepsBounds_of_range hrestored.romW fun h => ?_
    have ht := hb.range h
    exact { ht with ld := ht.sLd, lfd := ht.sLfd }

theorem familySkip_keepsBounds (s : State) : KeepsBounds s (familySkip s) := by
  refine keepsBounds_of_range rfl fun h => { h with ld := ?_, lfd := Nat.zero_le _ }
  have hld : (familySkip s).ld.toNat ≤ s.lfd.toNat := by
    rw [familySkip, BitVec.toNat_setWidth]
    exact Nat.mod_le _ _
  exact hld.trans (h.lfd.trans (by decide))

/-- Every command keeps the ranges and clears no bit of ROM_W. -/
theorem effect_keepsBounds (i : Instr) (s : State) : KeepsBounds s (effect i s) := by
  cases i with
  | resetSearch => exact clearSession_keepsBounds s
  | first => exact (clearSession_keepsBounds s).trans (afterSearch_keepsBounds _ _)
  | next | search => exact afterSearch_keepsBounds _ s
  | targetSetup =>
    exact ⟨maskGrows_allWritten _, fun h => { h with ld := le_refl 64, lfd := Nat.zero_le _ }⟩
  | familySkipSetup => exact familySkip_keepsBounds s
  | verify => exact afterVerify_keepsBounds s
  | crcClear | crcUpdate => exact keepsBounds_of_range rfl fun h => { h with }

end Sys2Proof.Machine
end

section
/-!
PROOF. The invariant `Sound` (spec/10_state.md R26, R32; 41_search.md R112; 42_family.md R142): reset has it,
every command and every item from outside keeps it.
-/

namespace Sys2Proof.Machine

/-- A halted state owes only its ranges, RESULT and FAULT_INFO. -/
theorem sound_of_halted {t : State} (hr : InRange t) (hh : isHalted t = true)
    (hres : t.result.vsame = true → t.result.vfound = true)
    (hi : faultInfoFits t.fault t.faultInfo = true) : Sound t := by
  have halted : isHalted t ≠ false := by simp [hh]
  exact ⟨hr, fun h => absurd h halted, fun h => absurd h halted, fun h => absurd h halted, hres, hi⟩

/-- An unhalted state is sound when its ranges, PH, RESULT and both replays are. -/
theorem sound_of_running {t : State} (hr : InRange t) (hf : t.fault = .none) (hph : t.ph = .idle)
    (hreplay : WrittenBelow t.romW t.ld.toNat) (hfamily : WrittenBelow t.romW t.lfd.toNat)
    (hres : t.result.vsame = true → t.result.vfound = true) : Sound t :=
  ⟨hr, fun _ => hph, fun _ => hreplay, fun _ => hfamily, hres, by rw [hf]; rfl⟩

theorem inRange_reset : InRange State.reset := by
  constructor <;> exact Nat.zero_le _

theorem sound_reset : Sound State.reset :=
  sound_of_running inRange_reset rfl rfl (writtenBelow_zero _) (writtenBelow_zero _) (by decide)

/-! ### The commands -/

theorem clearSession_sound {s : State} (hs : Sound s) : Sound (clearSession s) :=
  { hs with
    range := (clearSession_keepsBounds s).range hs.range
    replay := fun _ => writtenBelow_zero _
    family := fun _ => writtenBelow_zero _ }

theorem targetSetup_sound (fc : Byte) {s : State} (hs : Sound s) : Sound (targetSetup fc s) :=
  { hs with
    range := { hs.range with ld := le_refl 64, lfd := Nat.zero_le _ }
    replay := fun _ => writtenBelow_allWritten 64 (by decide)
    family := fun _ => writtenBelow_zero _ }

/-- FAMILY_SKIP_SETUP moves the bound of the family's replay to LD (42_family.md R142). -/
theorem familySkip_sound {s : State} (hs : Sound s) : Sound (familySkip s) := by
  have hld : (familySkip s).ld.toNat = s.lfd.toNat := by
    rw [familySkip, BitVec.toNat_setWidth]
    exact Nat.mod_eq_of_lt (by omega)
  exact { hs with
    range := (familySkip_keepsBounds s).range hs.range
    replay := fun h => hld ▸ hs.family h
    family := fun _ => writtenBelow_zero _ }

/-- The session a pass returns with can be replayed, from LD and from LFD (41_search.md R112, 42_family.md
R142). -/
theorem searchCore_value_replayable {cmd : Byte} {s t : State} {o : PassOutcome}
    (h : searchCore cmd s = .value o t) (hr : InRange t)
    (hreplay : WrittenBelow s.romW s.ld.toNat) (hfamily : WrittenBelow s.romW s.lfd.toNat) :
    WrittenBelow t.romW t.ld.toNat ∧ WrittenBelow t.romW t.lfd.toNat := by
  obtain ⟨-, hkeep⟩ | ⟨-, hclear⟩ | ⟨-, hw⟩ := searchCore_value_cases h
  · rw [hkeep.romW, hkeep.ld, hkeep.lfd]
    exact ⟨hreplay, hfamily⟩
  · rw [hclear.ld, hclear.lfd]
    exact ⟨writtenBelow_zero _, writtenBelow_zero _⟩
  · have hld := hr.ld
    have hlfd := hr.lfd
    rw [hw]
    exact ⟨writtenBelow_allWritten _ (by omega), writtenBelow_allWritten _ (by omega)⟩

theorem afterSearch_sound (cmd : Byte) {s : State} (hs : Sound s) (hh : isHalted s = false) :
    Sound (afterSearch cmd s) := by
  have hrange := (afterSearch_keepsBounds cmd s).range hs.range
  obtain ⟨t, -, ht, hf, hres, hi⟩ | ⟨o, t, hc, ht⟩ := afterSearch_cases cmd s <;> rw [ht] at hrange ⊢
  · exact sound_of_halted hrange (by simp [hf]) (by rw [hres]; exact hs.result) hi
  · have hfault := (searchCore_noRaise cmd s t o hc).fault
    rw [(isHalted_eq_false s).mp hh] at hfault
    obtain ⟨hreplay, hfamily⟩ := searchCore_value_replayable hc { hrange with } (hs.replay hh) (hs.family hh)
    exact sound_of_running hrange hfault rfl hreplay hfamily (by simp [searchResult])

/-- VSAME = 1 only with VFOUND = 1 (43_verify.md R152). -/
theorem verifyResult_vsame {found same : Bool} (h : same = true → found = true) :
    (verifyResult found same).vsame = true → (verifyResult found same).vfound = true := h

theorem afterVerify_sound {s : State} (hs : Sound s) (hh : isHalted s = false) : Sound (afterVerify s) := by
  have hrange := (afterVerify_keepsBounds s).range hs.range
  obtain ⟨t, -, ht, hf, hres, hi⟩ | ⟨o, t, same, hc, hsame, ht⟩ := afterVerify_cases s <;>
    rw [ht] at hrange ⊢
  · exact sound_of_halted hrange (by simp [hf]) (by rw [hres]; exact hs.result) hi
  · have hfault := (searchCore_noRaise _ _ t o hc).fault.trans ((isHalted_eq_false s).mp hh)
    obtain ⟨-, hromW, hld, hlfd, -⟩ := restoreSession_keepsSession hc
    refine sound_of_running hrange hfault rfl ?_ ?_ (verifyResult_vsame hsame)
    · change WrittenBelow (restoreSession t).romW (restoreSession t).ld.toNat
      rw [hromW, hld]
      exact hs.replay hh
    · change WrittenBelow (restoreSession t).romW (restoreSession t).lfd.toNat
      rw [hromW, hlfd]
      exact hs.family hh

/-- Every command keeps the invariant from a state that is not halted. -/
theorem effect_sound (i : Instr) {s : State} (hs : Sound s) (hh : isHalted s = false) :
    Sound (effect i s) := by
  cases i with
  | resetSearch => exact clearSession_sound hs
  | first => exact afterSearch_sound _ (clearSession_sound hs) hh
  | next | search => exact afterSearch_sound _ hs hh
  | targetSetup => exact targetSetup_sound _ hs
  | familySkipSetup => exact familySkip_sound hs
  | verify => exact afterVerify_sound hs hh
  | crcClear | crcUpdate => exact { hs with range := { hs.range with } }

/-! ### One item from outside -/

theorem raiseFault_sound {s : State} {code : FaultCode} {info : FaultInfo} (hs : Sound s)
    (hc : code ≠ .none) (hi : faultInfoFits code info = true) : Sound (raiseFault code info s) :=
  sound_of_halted { hs.range with } (by simpa using hc) hs.result hi

theorem commandDone_sound (w : Word) {s : State} (hs : Sound s) : Sound (commandDone w s) := by
  unfold commandDone
  split
  · exact hs
  · exact { hs with range := { hs.range with } }

theorem acceptCommand_sound {w : Word} {s t : State} (hs : Sound s) (hh : isHalted s = false)
    (h : acceptCommand w s = .next t) : Sound t := by
  obtain ⟨-, ha⟩ | ⟨i, -, ⟨u, hx, ha⟩ | ⟨f, -, ha⟩ | ⟨r, -, ha⟩⟩ := acceptCommand_cases w s <;>
    rw [ha] at h <;> cases h
  · exact raiseFault_sound hs (by decide) rfl
  · obtain ⟨-, rfl⟩ := (exec_next_iff i s u).mp hx
    exact commandDone_sound w (effect_sound i hs hh)

theorem hostRead_sound (off : Byte) {s : State} (hs : Sound s) : Sound (hostRead off s) := by
  unfold hostRead
  obtain ⟨v, h⟩ | h | h := regRead_cases off s <;> rw [h]
  · exact { hs with range := { hs.range with } }
  · exact raiseFault_sound hs (by decide) rfl
  · exact raiseFault_sound hs (by decide) rfl

theorem hardwareReset_sound (s : State) : Sound (hardwareReset s) :=
  { sound_reset with range := { inRange_reset with } }

theorem accept_sound {x : HostInput} {s t : State} (hs : Sound s) (h : accept x s = .next t) : Sound t := by
  unfold accept at h
  cases x with
  | hardwareReset => cases h; exact hardwareReset_sound s
  | busChange b => cases h; exact { hs with range := { hs.range with } }
  | command w =>
    split_ifs at h with hh
    · cases h; exact hs
    · exact acceptCommand_sound hs (Bool.eq_false_of_not_eq_true hh) h
  | read off =>
    split_ifs at h <;> cases h
    · exact hs
    · exact hostRead_sound off hs

/-! ### The obligations -/

/-- Settles O51: LD and LFD are 0 at reset, so no replay owes a written bit. -/
theorem resetStateIsSound : Obligations.ResetStateIsSound := sound_reset

/-- Settles O52: a step waits or handles one item, and every item keeps the invariant. -/
theorem stepKeepsSound : Obligations.StepKeepsSound := by
  intro s t hs h
  obtain ⟨-, -, hstep⟩ | ⟨-, -, hstep⟩ | ⟨x, rest, -, hstep⟩ := step_cases s <;> rw [hstep] at h
  · cases h; exact hs
  · cases h
  · have hrest : Sound { s with inputs := rest } := { hs with range := { hs.range with } }
    exact accept_sound hrest h

end Sys2Proof.Machine
end
section
/-!
PROOF. What commands leave of the session (spec/10_state.md R22, R26, R35).
-/

namespace Sys2Proof.Machine

/-- A pass started while LDF = 1 reports nothing and leaves LDF at 1 (41_search.md R115). -/
theorem afterSearch_exhausted (cmd : Byte) {s : State} (h : s.ldf = true) :
    (afterSearch cmd s).ldf = true ∧ (afterSearch cmd s).result.res = false := by
  rw [afterSearch, searchCore_exhausted cmd h]
  exact ⟨h, rfl⟩

/-- A VERIFY that does not halt the block leaves LDF as it was (43_verify.md R153). -/
theorem afterVerify_ldf {s : State} (h : isHalted (afterVerify s) = false) :
    (afterVerify s).ldf = s.ldf := by
  obtain ⟨t, -, ht, hf, -⟩ | ⟨o, t, same, hc, -, ht⟩ := afterVerify_cases s <;> rw [ht] at h ⊢
  · rw [isHalted_eq_false, hf] at h
    cases h
  · exact (restoreSession_keepsSession hc).ldf

/-- FAMILY_SKIP_SETUP never clears LDF (42_family.md R142). -/
theorem familySkip_ldf {s : State} (h : s.ldf = true) : (familySkip s).ldf = true := by
  simp [familySkip, h]

/-- Settles O48, by evaluation: at reset no byte of ROM is written, so a read of ROM0 to ROM7 faults. -/
theorem resetStateAsStated : Obligations.ResetStateAsStated := by
  refine ⟨rfl, rfl, rfl, rfl, rfl, rfl, rfl, rfl, rfl, fun off h => ?_⟩
  have hunwritten : romByte State.reset.romW off.toNat ≠ 0xFF#8 := by simp [romByte, State.reset]
  rw [regRead, if_pos h, if_neg hunwritten]

/-- Settles O53: the other six commands leave LDF at 1, and a pass started then is exhausted. -/
theorem exhaustionEndsOnlyByThreeCommands : Obligations.ExhaustionEndsOnlyByThreeCommands := by
  intro i s t hldf _ hx ht
  obtain ⟨-, rfl⟩ := (exec_next_iff i s t).mp hx
  have keeps : ∀ {P Q : Prop}, (effect i s).ldf = true → Q → ((effect i s).ldf = false → P) ∧ Q :=
    fun h hq => ⟨fun hf => absurd (h.symm.trans hf) (by decide), hq⟩
  cases i with
  | resetSearch | first | targetSetup => simp [Instr.mnemonic]
  | next | search =>
    obtain ⟨hl, hres⟩ := afterSearch_exhausted _ hldf
    exact keeps hl fun _ => hres
  | familySkipSetup => exact keeps (familySkip_ldf hldf) (by simp [Instr.mnemonic])
  | verify => exact keeps ((afterVerify_ldf ht).trans hldf) (by simp [Instr.mnemonic])
  | crcClear | crcUpdate => exact keeps hldf (by simp [Instr.mnemonic])

/-- Settles O54: every command grows the mask, and four write neither ROM nor ROM_W. -/
theorem writtenBitsStayWritten : Obligations.WrittenBitsStayWritten := by
  intro i s t hx
  obtain ⟨-, rfl⟩ := (exec_next_iff i s t).mp hx
  refine ⟨(effect_keepsBounds i s).grows, ?_⟩
  cases i with
  | resetSearch | familySkipSetup | crcClear | crcUpdate => exact fun _ => ⟨rfl, rfl⟩
  | first | next | search | targetSetup | verify => simp [Instr.mnemonic]

end Sys2Proof.Machine
end

section
/-!
PROOF. Two states the block cannot tell apart stay so (spec/10_state.md R30, R31, R35;
93_implementation_defined.md U5, U6): the relation `Alike` through the bus primitives, a position, a pass, the
commands and the items from outside.
-/

namespace Sys2Proof.Machine

/-! ### Alike states -/

/-- Alike states with every bit written hold the same ROM code. -/
theorem Alike.rom_eq {s s' : State} (h : Alike s s') (hw : s.romW = allWritten) : s.rom = s'.rom :=
  rom_ext _ _ fun k h1 h64 => h.rom k h1 h64 (by rw [hw, romBit_allWritten k h1 h64])

/-- Alike inside a pass: LZ and OK, which its start has written, are the same too (41_search.md R114). -/
structure PassAlike (s s' : State) : Prop extends Alike s s' where
  lz : s.lz = s'.lz
  ok : s.ok = s'.ok

/-- Two procedures end the same way, a return in states that `R` relates, a raise in alike ones. -/
inductive FlowAlike {α : Type} (R : State → State → Prop) : Flow α → Flow α → Prop
  | value (a : α) {s s' : State} (h : R s s') : FlowAlike R (.value a s) (.value a s')
  | raised {s s' : State} (h : Alike s s') : FlowAlike R (.raised s) (.raised s')

theorem clearSession_alike {s s' : State} (h : Alike s s') : Alike (clearSession s) (clearSession s') :=
  { h with ld := rfl, lfd := rfl, ldf := rfl }

theorem raiseFault_alike (code : FaultCode) (info : FaultInfo) {s s' : State} (h : Alike s s') :
    Alike (raiseFault code info s) (raiseFault code info s') :=
  { h with fault := rfl, faultInfo := fun _ => rfl }

theorem busWriteBit_alike (v : Bool) {s s' : State} (h : Alike s s') :
    Alike (busWriteBit v s) (busWriteBit v s') :=
  { h with
    history := congrArg (· ++ [BusEvent.w v]) h.history
    bus := congrArg (onWrite v) h.bus }

theorem writeBitsFrom_alike (b : Byte) (n i : Nat) {s s' : State} (h : Alike s s') :
    Alike (writeBitsFrom b n i s) (writeBitsFrom b n i s') := by
  induction n generalizing i s s' with
  | zero => exact h
  | succ n ih => exact ih (i + 1) (busWriteBit_alike (b.getLsbD i) h)

theorem busWriteByte_alike (b : Byte) {s s' : State} (h : Alike s s') :
    Alike (busWriteByte b s) (busWriteByte b s') := writeBitsFrom_alike b 8 0 h

/-! ### One position -/

theorem answersAt_congr {s s' : State} (h : s.bus = s'.bus) : answersAt s = answersAt s' := by
  rw [answersAt, answersAt, h]

theorem afterReads_passAlike (K : Nat) {s s' : State} (h : PassAlike s s') :
    PassAlike (afterReads K s) (afterReads K s') :=
  { h with
    ph := rfl
    history := by simp only [afterReads_history, h.history, answersAt_congr h.bus]
    bus := by simp only [afterReads_bus, h.bus] }

theorem noteZero_passAlike (K : Nat) {s s' : State} (h : PassAlike s s') :
    PassAlike (noteZero K s) (noteZero K s') :=
  { h with
    lfd := by simp only [noteZero_lfd, h.lfd]
    lz := rfl }

theorem withDirection_passAlike (K : Nat) (d z : Bool) {s s' : State} (h : PassAlike s s') :
    PassAlike (withDirection K d z s) (withDirection K d z s') := by
  have hd : PassAlike { s with dir := d } { s' with dir := d } := { h with }
  unfold withDirection
  split
  · exact noteZero_passAlike K hd
  · exact hd

/-- Codes that agree on a mask agree on it with one more position, after the same bit is put there. -/
theorem setRomBit_agree {a b w : Rom} {K : Nat} {d : Bool} (h1 : 1 ≤ K) (h64 : K ≤ 64)
    (h : ∀ k, 1 ≤ k → k ≤ 64 → romBit w k = true → romBit a k = romBit b k) (k : Nat) (hk1 : 1 ≤ k)
    (hk64 : k ≤ 64) (hw : romBit (setRomBit w K true) k = true) :
    romBit (setRomBit a K d) k = romBit (setRomBit b K d) k := by
  by_cases hk : k = K
  · rw [hk, romBit_setRomBit_self a K d h1 h64, romBit_setRomBit_self b K d h1 h64]
  · rw [romBit_setRomBit_other w K k true h1 hk1 hk] at hw
    rw [romBit_setRomBit_other a K k d h1 hk1 hk, romBit_setRomBit_other b K k d h1 hk1 hk,
      h k hk1 hk64 hw]

theorem writeDirection_passAlike {K : Nat} (h1 : 1 ≤ K) (h64 : K ≤ 64) {s s' : State}
    (h : PassAlike s s') (hd : s.dir = s'.dir) :
    PassAlike (writeDirection K s) (writeDirection K s') := by
  unfold writeDirection
  rw [← hd]
  have hset : PassAlike
      { s with ph := .wdir K, rom := setRomBit s.rom K s.dir, romW := setRomBit s.romW K true }
      { s' with ph := .wdir K, rom := setRomBit s'.rom K s.dir, romW := setRomBit s'.romW K true } :=
    { h with
      ph := rfl
      romW := congrArg (setRomBit · K true) h.romW
      rom := setRomBit_agree h1 h64 h.rom }
  exact { busWriteBit_alike s.dir hset.toAlike with lz := h.lz, ok := h.ok }

theorem directed_passAlike {K : Nat} (h1 : 1 ≤ K) (h64 : K ≤ 64) (d z : Bool) {s s' : State}
    (h : PassAlike s s') :
    PassAlike (writeDirection K (withDirection K d z (afterReads K s)))
      (writeDirection K (withDirection K d z (afterReads K s'))) :=
  writeDirection_passAlike h1 h64 (withDirection_passAlike K d z (afterReads_passAlike K h))
    (by rw [withDirection_dir, withDirection_dir])

/-- DISC_STEP (R118) as one expression: what it reads of the state are the two answers, LD, and at a replay
ROM and ROM_W at its own position. -/
theorem discStep_eq (K : Nat) (s : State) : discStep K s =
    if (answersAt s).1 = true ∧ (answersAt s).2 = true then .value .abort { afterReads K s with ok := false }
    else if (answersAt s).1 ≠ (answersAt s).2 then
      .value .go (writeDirection K (withDirection K (answersAt s).1 false (afterReads K s)))
    else if K < s.ld.toNat ∧ romBit s.romW K = false then
      .raised (raiseFault .unwrittenRead (.replay K) (afterReads K s))
    else .value .go (writeDirection K (withDirection K
      (if K < s.ld.toNat then romBit s.rom K else K == s.ld.toNat) true (afterReads K s))) := by
  obtain ⟨h1, h2, h⟩ | ⟨hne, h⟩ | ⟨h1, h2, hw, h⟩ | ⟨h1, h2, hk, hw, h⟩ := discStep_cases K s <;> rw [h]
  · rw [if_pos ⟨h1, h2⟩]
  · rw [if_neg fun hb => hne (hb.1.trans hb.2.symm), if_pos hne]
  · have hread : ¬(K < s.ld.toNat ∧ romBit s.romW K = false) := fun ⟨hk, hf⟩ => by simp [hw hk] at hf
    simp only [h1, h2, Bool.false_eq_true, false_and, ne_eq, not_true_eq_false, if_false, if_neg hread]
  · simp only [h1, h2, hk, hw, Bool.false_eq_true, ne_eq, not_true_eq_false, and_self, if_false, if_true]

theorem discStep_alike {K : Nat} (h1 : 1 ≤ K) (h64 : K ≤ 64) {s s' : State} (h : PassAlike s s') :
    FlowAlike PassAlike (discStep K s) (discStep K s') := by
  have hreads := afterReads_passAlike K h
  rw [discStep_eq K s, discStep_eq K s', ← answersAt_congr h.bus, ← h.ld, ← h.romW]
  split_ifs with hab hne hun hk
  · exact .value _ { hreads with ok := rfl }
  · exact .value _ (directed_passAlike h1 h64 _ _ h)
  · exact .raised (raiseFault_alike _ _ hreads.toAlike)
  · have hwritten : romBit s.romW K = true := by simpa [hk] using hun
    rw [h.rom K h1 h64 hwritten]
    exact .value _ (directed_passAlike h1 h64 _ _ h)
  · exact .value _ (directed_passAlike h1 h64 _ _ h)

/-! ### The pass -/

theorem positions_alike (n : Nat) (hn : n ≤ 64) {s s' : State} (h : PassAlike s s') :
    FlowAlike PassAlike (positions n s) (positions n s') := by
  induction n generalizing s s' with
  | zero => exact .value _ h
  | succ n ih =>
    have hd := discStep_alike (K := 64 - n) (by omega) (by omega) h
    unfold positions
    generalize discStep (64 - n) s = x, discStep (64 - n) s' = x' at hd
    cases hd with
    | raised hr => exact .raised hr
    | value r hv =>
      cases r with
      | abort => exact .value _ hv
      | go => exact ih (by omega) hv

/-- The end of a pass reads LZ and OK, and with OK = 1 the whole of ROM, which is then written. -/
theorem concludePass_alike {s s' : State} (h : PassAlike s s') (hw : s.ok = true → s.romW = allWritten) :
    FlowAlike Alike (concludePass s) (concludePass s') := by
  cases hok : s.ok
  · rw [concludePass_aborted s hok, concludePass_aborted s' (h.ok ▸ hok)]
    exact .value _ { clearSession_alike h.toAlike with ph := rfl }
  · have hok' : s'.ok = true := h.ok ▸ hok
    have hrom := h.toAlike.rom_eq (hw hok)
    by_cases hz : s.rom = 0#64
    · rw [concludePass_zero s hok hz, concludePass_zero s' hok' (hrom ▸ hz)]
      exact .value _ { clearSession_alike h.toAlike with ph := rfl }
    · rw [concludePass_found s hok hz, concludePass_found s' hok' (hrom ▸ hz)]
      exact .value _
        { h with
          ld := h.lz
          ldf := by simp only [completePass_ldf, h.lz, h.ldf]
          ph := rfl }

theorem afterPresence_alike {s s' : State} (h : Alike s s') :
    Alike (afterPresence s) (afterPresence s') :=
  { h with
    ph := rfl
    history := by simp only [afterPresence, busReset_history, h.history, h.bus]
    bus := by simp only [afterPresence, busReset_bus, h.bus] }

theorem passStart_alike (cmd : Byte) {s s' : State} (h : Alike s s') :
    PassAlike (passStart cmd s) (passStart cmd s') :=
  { busWriteByte_alike cmd (afterPresence_alike h) with lz := rfl, ok := rfl }

theorem searchCore_alike (cmd : Byte) {s s' : State} (h : Alike s s') :
    FlowAlike Alike (searchCore cmd s) (searchCore cmd s') := by
  rw [searchCore_eq, searchCore_eq, ← h.ldf, ← h.bus]
  split_ifs
  · exact .value _ { h with ph := rfl }
  · have hp := positions_alike 64 le_rfl (passStart_alike cmd h)
    have hw := @positions_all_written (passStart cmd s)
    generalize positions 64 (passStart cmd s) = x, positions 64 (passStart cmd s') = x' at hp hw ⊢
    cases hp with
    | raised hr => exact .raised hr
    | value r hv => exact concludePass_alike hv (hw rfl)
  · exact .value _ { clearSession_alike (afterPresence_alike h) with ph := rfl }

/-! ### The commands -/

theorem afterSearch_alike (cmd : Byte) {s s' : State} (h : Alike s s') :
    Alike (afterSearch cmd s) (afterSearch cmd s') := by
  have hc := searchCore_alike cmd h
  unfold afterSearch
  generalize searchCore cmd s = x, searchCore cmd s' = x' at hc
  cases hc with
  | raised hr => exact hr
  | value o hv => exact { hv with result := rfl, ph := rfl }

theorem verifyStart_alike {s s' : State} (h : Alike s s') : Alike (verifyStart s) (verifyStart s') :=
  { h with ld := rfl, ldf := rfl, ph := rfl }

/-- The compare reads a saved ROM that is wholly written, and the ROM of a found device, which is wholly
written too (43_verify.md R150, R152). -/
theorem compareSaved_alike {o : PassOutcome} {s s' t t' : State} (h : Alike s s') (ht : Alike t t')
    (hs : KeepsSession s (restoreSession t)) (hs' : KeepsSession s' (restoreSession t'))
    (hw : o = .found → t.romW = allWritten) :
    FlowAlike (fun u u' => u = t ∧ u' = t') (compareSaved (isFound o) t) (compareSaved (isFound o) t') := by
  have hmask : t.sRomW = t'.sRomW := hs.romW.trans (h.romW.trans hs'.romW.symm)
  unfold compareSaved
  rw [← hmask]
  split_ifs with hfound hall
  · have hsaved : t.sRom = t'.sRom :=
      hs.rom.trans ((h.rom_eq (hs.romW.symm.trans hall)).trans hs'.rom.symm)
    have hfinal : t.rom = t'.rom := ht.rom_eq (hw (by simpa [isFound] using hfound))
    rw [hsaved, hfinal]
    exact .value _ ⟨rfl, rfl⟩
  · exact .raised (raiseFault_alike _ _ ht)
  · exact .value _ ⟨rfl, rfl⟩

/-- The restored sessions are alike as the saved ones were. -/
theorem restoreSession_alike {s s' t t' : State} (h : Alike s s') (ht : Alike t t')
    (hs : KeepsSession s (restoreSession t)) (hs' : KeepsSession s' (restoreSession t')) :
    Alike (restoreSession t) (restoreSession t') :=
  { ht with
    romW := hs.romW.trans (h.romW.trans hs'.romW.symm)
    rom := fun k h1 h64 hw => by
      rw [hs.rom, hs'.rom]
      exact h.rom k h1 h64 (hs.romW ▸ hw)
    ld := hs.ld.trans (h.ld.trans hs'.ld.symm)
    lfd := hs.lfd.trans (h.lfd.trans hs'.lfd.symm)
    ldf := hs.ldf.trans (h.ldf.trans hs'.ldf.symm) }

theorem afterVerify_alike {s s' : State} (h : Alike s s') : Alike (afterVerify s) (afterVerify s') := by
  have hc := searchCore_alike Config.searchCommand (verifyStart_alike h)
  unfold afterVerify
  cases hx : searchCore Config.searchCommand (verifyStart s) <;>
    cases hx' : searchCore Config.searchCommand (verifyStart s') <;> rw [hx, hx'] at hc <;> cases hc
  case raised.raised.raised hr => exact hr
  case value.value.value o t t' ht =>
    have hs := restoreSession_keepsSession hx
    have hs' := restoreSession_keepsSession hx'
    have hcmp := compareSaved_alike h ht hs hs' (o := o) fun ho => searchCore_found_romW (ho ▸ hx)
    cases hy : compareSaved (isFound o) t <;> cases hy' : compareSaved (isFound o) t' <;>
      rw [hy, hy'] at hcmp <;> cases hcmp
    case raised.raised.raised hr =>
      rw [endVerify_of_raised hy, endVerify_of_raised hy']
      exact hr
    case value.value.value same u u' hu =>
      obtain ⟨rfl, rfl⟩ := hu
      rw [endVerify_of_value hy, endVerify_of_value hy']
      exact { restoreSession_alike h ht hs hs' with result := rfl, ph := rfl }

theorem familySkip_alike {s s' : State} (h : Alike s s') : Alike (familySkip s) (familySkip s') :=
  { h with
    ld := congrArg (BitVec.setWidth 7) h.lfd
    lfd := rfl
    ldf := by simp only [familySkip, h.lfd, h.ldf] }

theorem effect_alike (i : Instr) {s s' : State} (h : Alike s s') : Alike (effect i s) (effect i s') := by
  cases i with
  | resetSearch => exact clearSession_alike h
  | first => exact afterSearch_alike _ (clearSession_alike h)
  | next | search => exact afterSearch_alike _ h
  | targetSetup =>
    exact { h with romW := rfl, rom := fun _ _ _ _ => rfl, ld := rfl, lfd := rfl, ldf := rfl }
  | familySkipSetup => exact familySkip_alike h
  | verify => exact afterVerify_alike h
  | crcClear => exact { h with crc := rfl }
  | crcUpdate n => exact { h with crc := congrArg (crcStep · (BitVec.ofNat 8 n)) h.crc }

/-! ### One item from outside -/

theorem isHalted_congr {s s' : State} (h : s.fault = s'.fault) : isHalted s = isHalted s' := by
  rw [isHalted, isHalted, h]

/-- A byte of which every bit is written reads the same (U5). -/
theorem romByte_congr {s s' : State} (h : Alike s s') {i : Nat} (hi : i ≤ 7)
    (hw : romByte s.romW i = 0xFF#8) : romByte s.rom i = romByte s'.rom i := by
  apply BitVec.eq_of_getLsbD_eq
  intro j hj
  have hbit : ∀ a : Rom, (romByte a i).getLsbD j = romBit a (8 * i + j + 1) := fun a => by
    rw [getLsbD_romByte, decide_eq_true hj, Bool.true_and, romBit, Nat.add_sub_cancel]
  have hwritten : romBit s.romW (8 * i + j + 1) = true := by
    rw [← hbit, hw, show (0xFF#8) = BitVec.allOnes 8 from rfl, BitVec.getLsbD_allOnes, decide_eq_true hj]
  rw [hbit, hbit, h.rom _ (by omega) (by omega) hwritten]

theorem regRead_congr (off : Byte) {s s' : State} (h : Alike s s') : regRead off s = regRead off s' := by
  unfold regRead
  rw [← h.romW, ← h.ld, ← h.lfd, ← h.ldf, ← h.result, ← h.crc]
  split
  · next hoff =>
    split
    · next hw => rw [romByte_congr h hoff hw]
    · rfl
  · rfl

theorem hostRead_alike (off : Byte) {s s' : State} (h : Alike s s') :
    Alike (hostRead off s) (hostRead off s') := by
  unfold hostRead
  rw [← regRead_congr off h]
  cases regRead off s with
  | ok v => exact { h with answers := congrArg (· ++ [.data off v]) h.answers }
  | error e => exact raiseFault_alike e.1 e.2 h

theorem commandDone_alike (w : Word) {s s' : State} (h : Alike s s') :
    Alike (commandDone w s) (commandDone w s') := by
  unfold commandDone
  rw [← isHalted_congr h.fault]
  split
  · exact h
  · exact { h with answers := congrArg (· ++ [.completed w]) h.answers }

theorem acceptCommand_alike {w : Word} {s s' t : State} (h : Alike s s')
    (hs : acceptCommand w s = .next t) : ∃ t', acceptCommand w s' = .next t' ∧ Alike t t' := by
  unfold acceptCommand at hs ⊢
  cases hd : decode w with
  | error e =>
    rw [hd] at hs
    cases hs
    exact ⟨_, rfl, raiseFault_alike _ _ h⟩
  | ok i =>
    rw [hd] at hs
    cases hx : exec i s <;> simp only [hx, reduceCtorEq] at hs
    case next u =>
      cases hs
      obtain ⟨hwf, rfl⟩ := (exec_next_iff i s u).mp hx
      simp only [(exec_next_iff i s' _).mpr ⟨hwf, rfl⟩]
      exact ⟨_, rfl, commandDone_alike w (effect_alike i h)⟩

theorem accept_alike {x : HostInput} {s s' t : State} (h : Alike s s') (hs : accept x s = .next t) :
    ∃ t', accept x s' = .next t' ∧ Alike t t' := by
  cases x with
  | hardwareReset =>
    cases hs
    exact ⟨_, rfl, rfl, fun _ _ _ _ => rfl, rfl, rfl, rfl, rfl, rfl, rfl, rfl, fun _ => rfl, rfl, h.bus,
      h.inputs, h.answers⟩
  | busChange b =>
    cases hs
    exact ⟨_, rfl, { h with bus := rfl }⟩
  | command w =>
    unfold accept at hs ⊢
    simp only [← isHalted_congr h.fault]
    split_ifs at hs ⊢
    · cases hs; exact ⟨_, rfl, h⟩
    · exact acceptCommand_alike h hs
  | read off =>
    unfold accept at hs ⊢
    simp only [← isHalted_congr h.fault]
    split_ifs at hs ⊢ <;> cases hs
    · exact ⟨_, rfl, h⟩
    · exact ⟨_, rfl, hostRead_alike off h⟩

/-! ### The obligation -/

/-- Settles O56: alike blocks take the same next item and do alike things with it; a wait changes
neither. -/
theorem unspecifiedFieldsNeverMatter : Obligations.UnspecifiedFieldsNeverMatter := by
  intro s s' t h hs
  unfold step at hs ⊢
  rw [← h.inputs]
  cases hin : s.inputs with
  | nil =>
    rw [hin] at hs
    simp only [await, ← isHalted_congr h.fault] at hs ⊢
    split_ifs at hs ⊢
    cases hs
    exact ⟨_, rfl, h⟩
  | cons x rest =>
    rw [hin] at hs
    have hrest : Alike { s with inputs := rest } { s' with inputs := rest } := { h with inputs := rfl }
    exact accept_alike hrest hs

end Sys2Proof.Machine
end

section
/-!
PROOF. The register read port and the command port (spec/20_memory.md R51 to R53, R58; 60_exceptions.md
R173, R177): what the register map holds at each offset, and what a step does with a read or a command.
-/

namespace Sys2Proof.Machine

/-! ### The bytes of the register map (R51) -/

theorem getLsbD_romByte_eq_romBit (a : Rom) (i j : Nat) (hj : j < 8) :
    (romByte a i).getLsbD j = romBit a (8 * i + j + 1) := by
  rw [getLsbD_romByte, decide_eq_true hj, Bool.true_and, romBit, Nat.add_sub_cancel]

/-- Byte `i` of the written-mask is all ones when the eight positions of the byte are written. -/
theorem romByte_eq_ones_iff (a : Rom) (i : Nat) :
    romByte a i = 0xFF#8 ↔ ∀ j, j < 8 → romBit a (8 * i + j + 1) = true := by
  have hones : ∀ j, j < 8 → (0xFF#8).getLsbD j = true := by decide
  constructor
  · intro h j hj
    rw [← getLsbD_romByte_eq_romBit a i j hj, h, hones j hj]
  · intro h
    apply BitVec.eq_of_getLsbD_eq
    intro j hj
    rw [getLsbD_romByte_eq_romBit a i j hj, h j hj, hones j hj]

theorem flagsByte_toNat (ldf : Bool) : (flagsByte ldf).toNat = ldf.toNat := by
  cases ldf <;> rfl

theorem resultByte_toNat (r : ResultReg) :
    (resultByte r).toNat = 4 * r.vsame.toNat + 2 * r.vfound.toNat + r.res.toNat := by
  obtain ⟨res, vfound, vsame⟩ := r
  revert res vfound vsame
  decide

/-! ### The read port, by offset (R52) -/

theorem regRead_rom_written {off : Byte} {s : State} (hoff : off.toNat ≤ 7)
    (hw : romByte s.romW off.toNat = 0xFF#8) : regRead off s = .ok (romByte s.rom off.toNat) := by
  rw [regRead, if_pos hoff, if_pos hw]

theorem regRead_rom_unwritten {off : Byte} {s : State} (hoff : off.toNat ≤ 7)
    (hw : romByte s.romW off.toNat ≠ 0xFF#8) : regRead off s = .error (.unwrittenRead, .host off) := by
  rw [regRead, if_pos hoff, if_neg hw]

theorem regRead_unmapped {off : Byte} (s : State) (hoff : 0x0D ≤ off.toNat) :
    regRead off s = .error (.unmappedRegister, .offset off) := by
  have hrom : ¬ off.toNat ≤ 7 := by omega
  have hne : ∀ b : Byte, b.toNat < 0x0D → off ≠ b := by
    rintro b hb rfl
    omega
  rw [regRead, if_neg hrom, if_neg (hne _ (by decide)), if_neg (hne _ (by decide)),
    if_neg (hne _ (by decide)), if_neg (hne _ (by decide)), if_neg (hne _ (by decide))]

/-- A fault of the read port has a code. -/
theorem regRead_error_ne_none {off : Byte} {s : State} {code : FaultCode} {info : FaultInfo}
    (h : regRead off s = .error (code, info)) : code ≠ .none := by
  rintro rfl
  obtain ⟨v, hv⟩ | hv | hv := regRead_cases off s <;> cases hv.symm.trans h

/-! ### A step on a read or a command -/

theorem step_of_inputs_cons {s : State} {x : HostInput} {rest : List HostInput}
    (h : s.inputs = x :: rest) : step s = accept x { s with inputs := rest } := by
  rw [step, h]

theorem accept_read_of_halted {s : State} (off : Byte) (h : isHalted s = true) :
    accept (.read off) s = .next s := by
  rw [accept, if_pos h]

theorem accept_read {s : State} (off : Byte) (h : isHalted s = false) :
    accept (.read off) s = .next (hostRead off s) := by
  rw [accept, h, if_neg Bool.false_ne_true]

theorem accept_command {s : State} (w : Word) (h : isHalted s = false) :
    accept (.command w) s = acceptCommand w s := by
  rw [accept, h, if_neg Bool.false_ne_true]

theorem acceptCommand_of_next {w : Word} {i : Instr} {s t : State} (hd : decode w = .ok i)
    (hx : exec i s = .next t) : acceptCommand w s = .next (commandDone w t) := by
  simp only [acceptCommand, hd, hx]

theorem commandDone_of_halted {t : State} (w : Word) (h : isHalted t = true) : commandDone w t = t := by
  rw [commandDone, if_pos h]

theorem commandDone_of_running {t : State} (w : Word) (h : isHalted t = false) :
    commandDone w t = { t with answers := t.answers ++ [.completed w] } := by
  rw [commandDone, h, if_neg Bool.false_ne_true]

theorem hostRead_of_ok {off v : Byte} {s : State} (h : regRead off s = .ok v) :
    hostRead off s = { s with answers := s.answers ++ [.data off v] } := by
  rw [hostRead, h]

theorem hostRead_of_error {off : Byte} {s : State} {code : FaultCode} {info : FaultInfo}
    (h : regRead off s = .error (code, info)) : hostRead off s = raiseFault code info s := by
  rw [hostRead, h]

/-! ### The obligations -/

/-- Settles O10, range by range: the ROM bytes by their written-mask, the five registers above them, and
the rest of the 256 offsets. -/
theorem registerReadAnswersTheMap : Obligations.RegisterReadAnswersTheMap := by
  intro s off
  have atOffset : ∀ b : Byte, off.toNat = b.toNat → off = b := fun _ => BitVec.eq_of_toNat_eq
  refine ⟨fun hoff hw => ?rom, fun hoff hw => ?unwritten, fun h => ?ld, fun h => ?lfd, fun h => ?flags,
    fun h => ?result, fun h => ?crc, regRead_unmapped s⟩
  case rom => exact regRead_rom_written hoff ((romByte_eq_ones_iff _ _).mpr hw)
  case unwritten =>
    obtain ⟨j, hj, hbit⟩ := hw
    refine regRead_rom_unwritten hoff fun hones => ?_
    exact absurd ((romByte_eq_ones_iff _ _).mp hones j hj) (by simp [hbit])
  case ld =>
    obtain rfl := atOffset 0x08#8 h
    exact ⟨s.ld.setWidth 8, BitVec.toNat_setWidth_of_le (by decide), rfl⟩
  case lfd =>
    obtain rfl := atOffset 0x09#8 h
    exact ⟨s.lfd.setWidth 8, BitVec.toNat_setWidth_of_le (by decide), rfl⟩
  case flags =>
    obtain rfl := atOffset 0x0A#8 h
    exact ⟨flagsByte s.ldf, flagsByte_toNat s.ldf, rfl⟩
  case result =>
    obtain rfl := atOffset 0x0B#8 h
    exact ⟨resultByte s.result, resultByte_toNat s.result, rfl⟩
  case crc =>
    obtain rfl := atOffset 0x0C#8 h
    rfl

/-- Settles O50: the word leaves the list, its command runs whole, and its completion is answered when the
command left the block running. -/
theorem stepRunsTheDecodedCommand : Obligations.StepRunsTheDecodedCommand := by
  intro s t w i rest hs hin hd hx
  have hstep : step s = .next (commandDone w t) := by
    calc step s = accept (.command w) { s with inputs := rest } := step_of_inputs_cons hin
      _ = acceptCommand w { s with inputs := rest } := accept_command w hs
      _ = .next (commandDone w t) := acceptCommand_of_next hd hx
  refine ⟨fun ht => ?_, fun ht => ?_⟩
  · rw [hstep, commandDone_of_running w ht]
  · rw [hstep, commandDone_of_halted w ht]

/-- Settles O57: a halted block passes the read by; a running one answers the byte or halts. -/
theorem hostReadsWriteNoRegister : Obligations.HostReadsWriteNoRegister := by
  intro s off rest hin
  have hread : isHalted s = false → step s = .next (hostRead off { s with inputs := rest }) :=
    fun hs => (step_of_inputs_cons hin).trans (accept_read off hs)
  refine ⟨fun hs => ?_, fun hs v hr => ?_, fun hs code info hr => ⟨regRead_error_ne_none hr, ?_⟩⟩
  · exact (step_of_inputs_cons hin).trans (accept_read_of_halted off hs)
  · exact (hread hs).trans (congrArg _ (hostRead_of_ok hr))
  · exact (hread hs).trans (congrArg _ (hostRead_of_error hr))

end Sys2Proof.Machine
end

section
/-!
PROOF. Command words (spec/30_encoding.md R70 to R77): the three fields of a word, the one lemma that says
which words decode to a command (`decode_eq_ok_iff`), and from it the round trip, the illegal words, the
table of R71 and the assembler's terms.
-/

namespace Sys2Proof.Machine

/-! ### The fields of a word (R70) -/

theorem opField_toNat (w : Word) : (opField w).toNat = w.toNat % 16 := by
  simp [opField, BitVec.extractLsb'_toNat]

theorem rsvField_toNat (w : Word) : (rsvField w).toNat = w.toNat / 16 % 16 := by
  simp [rsvField, BitVec.extractLsb'_toNat, Nat.shiftRight_eq_div_pow]

theorem argField_toNat (w : Word) : (argField w).toNat = w.toNat / 256 := by
  have hlt : w.toNat / 256 < 256 := by omega
  simp [argField, BitVec.extractLsb'_toNat, Nat.shiftRight_eq_div_pow, Nat.mod_eq_of_lt hlt]

theorem cmd16_toNat (op : BitVec 4) (arg : Byte) :
    (cmd16 op arg).toNat = 256 * arg.toNat + op.toNat := by
  have harg : (arg ++ 0#4).toNat = 16 * arg.toNat := by
    rw [BitVec.toNat_append, BitVec.toNat_zero, Nat.or_zero, Nat.shiftLeft_eq, Nat.mul_comm]
  calc (cmd16 op arg).toNat = ((arg ++ 0#4) ++ op).toNat := rfl
    _ = 2 ^ 4 * (16 * arg.toNat) + op.toNat := by
      rw [BitVec.toNat_append, harg, Nat.shiftLeft_eq, Nat.mul_comm, Nat.two_pow_add_eq_or_of_lt op.isLt]
    _ = 256 * arg.toNat + op.toNat := by omega

/-- A word with RSV = 0 is made of its OP and its ARG, and those are its fields. -/
theorem eq_cmd16_iff (w : Word) (op : BitVec 4) (arg : Byte) :
    w = cmd16 op arg ↔ rsvField w = 0#4 ∧ opField w = op ∧ argField w = arg := by
  have hw := w.isLt
  have hop := op.isLt
  have harg := arg.isLt
  rw [← BitVec.toNat_inj, ← BitVec.toNat_inj, ← BitVec.toNat_inj, ← BitVec.toNat_inj, cmd16_toNat,
    rsvField_toNat, opField_toNat, argField_toNat, BitVec.toNat_zero]
  omega

/-! ### Mnemonics and their commands (R71, R72) -/

theorem shape_inl {m : Mnemonic} {i : Instr} (h : m.shape = .inl i) :
    i.mnemonic = m ∧ i.operand = none ∧ i.op.toNat ∈ [0x0, 0x1, 0x2, 0x5, 0x6, 0x7] := by
  cases m <;> cases h <;> decide

theorem shape_inr {m : Mnemonic} {f : Nat → Instr} (h : m.shape = .inr f) (n : Nat) :
    (f n).mnemonic = m ∧ (f n).operand = some n ∧ (f n).op = (f 0).op ∧
      (f 0).op.toNat ∈ [0x3, 0x4, 0x8] := by
  cases m <;> cases h <;> exact ⟨rfl, rfl, rfl, by decide⟩

/-- The commands of a mnemonic: its one command, or the constructor with any immediate. -/
theorem mnemonic_eq_iff (i : Instr) (m : Mnemonic) :
    i.mnemonic = m ↔ m.shape = .inl i ∨ ∃ f n, m.shape = .inr f ∧ i = f n := by
  constructor
  · rintro rfl
    cases i with
    | search n | targetSetup n | crcUpdate n => exact .inr ⟨_, n, rfl, rfl⟩
    | _ => exact .inl rfl
  · rintro (h | ⟨f, n, h, rfl⟩)
    · exact (shape_inl h).1
    · exact (shape_inr h n).1

/-! ### Decoding (R71 to R73) -/

theorem argFree_eq_ok_iff (arg : Byte) (i j : Instr) :
    argFree arg i = .ok j ↔ arg = 0#8 ∧ i = j := by
  unfold argFree
  split <;> simp [*]

theorem argFree_eq_error_iff (arg : Byte) (i : Instr) :
    (∃ e, argFree arg i = .error e) ↔ arg ≠ 0#8 := by
  unfold argFree
  split <;> simp [*]

/-- What decoding a word can do: refuse its RSV, refuse its OP, decode the command of its OP with ARG = 0, or
decode the command of its OP with ARG as its immediate. -/
theorem decode_cases (w : Word) :
    (rsvField w ≠ 0#4 ∧ decode w = .error .reserved) ∨
    (9 ≤ (opField w).toNat ∧ decode w = .error .opcode) ∨
    (rsvField w = 0#4 ∧ ∃ m i, Mnemonic.shape m = .inl i ∧ opField w = i.op ∧
      decode w = argFree (argField w) i) ∨
    (rsvField w = 0#4 ∧ ∃ m f, Mnemonic.shape m = .inr f ∧ opField w = (f 0).op ∧
      decode w = .ok (f (argField w).toNat)) := by
  unfold decode
  split
  · next hrsv => exact .inl ⟨hrsv, rfl⟩
  · next hrsv =>
    have op {v : BitVec 4} (h : (opField w).toNat = v.toNat) : opField w = v := BitVec.eq_of_toNat_eq h
    refine .inr ?_
    rw [not_not] at hrsv
    split
    · next h => exact .inr (.inl ⟨hrsv, .resetSearch, _, rfl, op h, rfl⟩)
    · next h => exact .inr (.inl ⟨hrsv, .first, _, rfl, op h, rfl⟩)
    · next h => exact .inr (.inl ⟨hrsv, .next, _, rfl, op h, rfl⟩)
    · next h => exact .inr (.inr ⟨hrsv, .search, _, rfl, op h, rfl⟩)
    · next h => exact .inr (.inr ⟨hrsv, .targetSetup, _, rfl, op h, rfl⟩)
    · next h => exact .inr (.inl ⟨hrsv, .familySkipSetup, _, rfl, op h, rfl⟩)
    · next h => exact .inr (.inl ⟨hrsv, .verify, _, rfl, op h, rfl⟩)
    · next h => exact .inr (.inl ⟨hrsv, .crcClear, _, rfl, op h, rfl⟩)
    · next h => exact .inr (.inr ⟨hrsv, .crcUpdate, _, rfl, op h, rfl⟩)
    · refine .inl ⟨?_, rfl⟩
      simp only [imp_false] at *
      omega

/-- A word decodes to a command exactly when RSV is 0, OP is the command's opcode and ARG its immediate, 0
for a command without one. -/
theorem decode_eq_ok_iff (w : Word) (i : Instr) :
    decode w = .ok i ↔
      rsvField w = 0#4 ∧ opField w = i.op ∧ (argField w).toNat = i.operand.getD 0 := by
  constructor
  · intro h
    obtain ⟨-, hd⟩ | ⟨-, hd⟩ | ⟨hrsv, m, j, hm, hop, hd⟩ | ⟨hrsv, m, f, hm, hop, hd⟩ := decode_cases w <;>
      rw [hd] at h
    · cases h
    · cases h
    · obtain ⟨harg, rfl⟩ := (argFree_eq_ok_iff _ _ _).mp h
      obtain ⟨-, hnone, -⟩ := shape_inl hm
      exact ⟨hrsv, hop, by rw [harg, hnone]; rfl⟩
    · cases h
      obtain ⟨-, hsome, hopf, -⟩ := shape_inr hm (argField w).toNat
      exact ⟨hrsv, hop.trans hopf.symm, by rw [hsome]; rfl⟩
  · rintro ⟨hrsv, hop, harg⟩
    have hzero : (argField w).toNat = 0 → argField w = 0#8 := fun h => BitVec.eq_of_toNat_eq h
    cases i with
    | search n | targetSetup n | crcUpdate n =>
      obtain rfl : (argField w).toNat = n := harg
      simp [decode, hrsv, hop, Instr.op]
    | _ => simp [decode, hrsv, hop, Instr.op, argFree, hzero harg]

/-- R73: the illegal words. -/
theorem decode_eq_error_iff (w : Word) :
    (∃ e, decode w = .error e) ↔
      9 ≤ (opField w).toNat ∨ rsvField w ≠ 0#4 ∨
      ((opField w).toNat ∈ [0x0, 0x1, 0x2, 0x5, 0x6, 0x7] ∧ argField w ≠ 0#8) := by
  obtain ⟨hrsv, hd⟩ | ⟨hop, hd⟩ | ⟨hrsv, m, i, hm, hop, hd⟩ | ⟨hrsv, m, f, hm, hop, hd⟩ := decode_cases w <;>
    rw [hd]
  · exact ⟨fun _ => .inr (.inl hrsv), fun _ => ⟨_, rfl⟩⟩
  · exact ⟨fun _ => .inl hop, fun _ => ⟨_, rfl⟩⟩
  · obtain ⟨-, -, hmem⟩ := shape_inl hm
    rw [← hop] at hmem
    have hlt : ¬ 9 ≤ (opField w).toNat := by
      simp only [List.mem_cons, List.not_mem_nil, or_false] at hmem
      omega
    simp only [argFree_eq_error_iff, hlt, hrsv, hmem, ne_eq, not_true, false_or, true_and]
  · obtain ⟨-, -, -, hmem⟩ := shape_inr hm 0
    rw [← hop] at hmem
    simp only [List.mem_cons, List.not_mem_nil, or_false] at hmem ⊢
    simp only [hrsv, reduceCtorEq, exists_false, false_iff, ne_eq, not_true, false_or]
    rintro (h | ⟨h, -⟩) <;> omega

/-! ### Encoding (R70, R77) -/

theorem wf_iff (i : Instr) : i.WF ↔ i.operand.getD 0 < 256 := by
  cases h : i.operand with
  | none => simp [Instr.WF, Instr.illFormed, h]
  | some n => exact wf_iff_of_operand h

theorem encode_eq_some_iff (i : Instr) (w : Word) :
    encode i = some w ↔ i.WF ∧ w = cmd16 i.op (BitVec.ofNat 8 (i.operand.getD 0)) := by
  unfold encode Instr.WF
  cases i.illFormed with
  | none => simp [eq_comm]
  | some e => simp

/-- Decoding and encoding are inverse to each other. -/
theorem decode_eq_ok_iff_encode (w : Word) (i : Instr) : decode w = .ok i ↔ encode i = some w := by
  have himm : ∀ (b : Byte) (n : Nat), b.toNat = n ↔ n < 256 ∧ b = BitVec.ofNat 8 n := by
    intro b n
    constructor
    · rintro rfl
      exact ⟨b.isLt, by simp⟩
    · rintro ⟨hn, rfl⟩
      exact Nat.mod_eq_of_lt hn
  rw [decode_eq_ok_iff, encode_eq_some_iff, eq_cmd16_iff, wf_iff, himm]
  tauto

/-- A well-formed command has a word, and the word decodes to it. -/
theorem exists_word_of_wf {i : Instr} (h : i.WF) : ∃ w, encode i = some w ∧ decode w = .ok i := by
  have he := (encode_eq_some_iff i _).mpr ⟨h, rfl⟩
  exact ⟨_, he, (decode_eq_ok_iff_encode _ i).mpr he⟩

/-- An immediate outside 0..255 has no encoding (R77). -/
theorem encode_eq_none {i : Instr} {n : Nat} (hi : i.operand = some n) (h : 256 ≤ n) : encode i = none := by
  refine Option.eq_none_iff_forall_ne_some.mpr fun w hw => ?_
  obtain ⟨hwf, -⟩ := (encode_eq_some_iff i w).mp hw
  exact absurd ((wf_iff_of_operand hi).mp hwf) (Nat.not_lt.mpr h)

/-! ### Illegal words at the port (R73) -/

theorem acceptCommand_of_error {w : Word} {e : Illegal} (s : State) (h : decode w = .error e) :
    acceptCommand w s = .next (raiseFault .illegalCommand (.word w) s) := by
  simp only [acceptCommand, h]

/-! ### The table of R71 -/

/-- The row of R71 for a mnemonic: the whole word of a command without an immediate, the low byte of one
with an immediate. -/
def tableRow (m : Mnemonic) : OpcodeRow :=
  match m.shape with
  | .inl i => ⟨m, cmd16 i.op 0#8, 0xFFFF#16⟩
  | .inr f => ⟨m, cmd16 (f 0).op 0#8, 0x00FF#16⟩

theorem opcodeTable_eq : opcodeTable = allMnemonics.map tableRow := by decide

theorem tableRow_of_mem {r : OpcodeRow} (h : r ∈ opcodeTable) : r = tableRow r.mnemonic := by
  rw [opcodeTable_eq] at h
  obtain ⟨m, -, rfl⟩ := List.mem_map.mp h
  cases m <;> rfl

theorem selects_full_mask (m : Mnemonic) (op : BitVec 4) (w : Word) :
    OpcodeRow.selects ⟨m, cmd16 op 0#8, 0xFFFF#16⟩ w = true ↔ w = cmd16 op 0#8 := by
  have hand : w &&& 0xFFFF#16 = w := BitVec.and_allOnes
  rw [OpcodeRow.selects, hand, beq_iff_eq]

theorem selects_low_mask (m : Mnemonic) (op : BitVec 4) (w : Word) :
    OpcodeRow.selects ⟨m, cmd16 op 0#8, 0x00FF#16⟩ w = true ↔ rsvField w = 0#4 ∧ opField w = op := by
  have hop := op.isLt
  have hand : (w &&& 0x00FF#16).toNat = w.toNat % 256 := Nat.and_two_pow_sub_one_eq_mod w.toNat 8
  rw [OpcodeRow.selects, beq_iff_eq, ← BitVec.toNat_inj, ← BitVec.toNat_inj, ← BitVec.toNat_inj, hand,
    cmd16_toNat, rsvField_toNat, opField_toNat, BitVec.toNat_zero, BitVec.toNat_zero]
  omega

/-- A word selects the row of a mnemonic exactly when it decodes to a command of that mnemonic. -/
theorem selects_tableRow_iff (m : Mnemonic) (w : Word) :
    (tableRow m).selects w = true ↔ ∃ i, decode w = .ok i ∧ i.mnemonic = m := by
  simp only [mnemonic_eq_iff]
  cases hm : m.shape with
  | inl i =>
    obtain ⟨-, hnone, -⟩ := shape_inl hm
    have hzero : (argField w).toNat = 0 ↔ argField w = 0#8 := (BitVec.toNat_inj (y := 0#8))
    simp [tableRow, hm, selects_full_mask, eq_cmd16_iff, decode_eq_ok_iff, hnone, hzero]
  | inr f =>
    have hf : ∀ n, (f n).operand = some n ∧ (f n).op = (f 0).op := fun n => by
      obtain ⟨-, hsome, hop, -⟩ := shape_inr hm n
      exact ⟨hsome, hop⟩
    simp [tableRow, hm, selects_low_mask, decode_eq_ok_iff, hf]

/-- The rows of R71 have nine different mnemonics, and a word decodes to at most one command. -/
theorem opcodeTable_disjoint (w : Word) :
    opcodeTable.Pairwise fun r q => ¬ (r.selects w = true ∧ q.selects w = true) := by
  have hne : opcodeTable.Pairwise fun r q => r.mnemonic ≠ q.mnemonic := by decide
  refine hne.imp_of_mem fun {r q} hr hq hrq => ?_
  rw [tableRow_of_mem hr, tableRow_of_mem hq, selects_tableRow_iff, selects_tableRow_iff]
  rintro ⟨⟨i, hi, hir⟩, ⟨j, hj, hjq⟩⟩
  obtain rfl : i = j := Except.ok.inj (hi.symm.trans hj)
  exact hrq (hir.symm.trans hjq)

/-! ### The assembler (R75, R77) -/

theorem assembleLine_of_check_error {t : AsmTerm} {e : IllFormed} (h : t.check = .error e) :
    assembleLine (.command t) = .error (.illFormed e) := by
  simp only [assembleLine, h]

theorem assembleLine_of_check_ok {t : AsmTerm} {i : Instr} (h : t.check = .ok i) (hi : i.WF) :
    ∃ w, assembleLine (.command t) = .ok (some (.command w)) ∧ decode w = .ok i := by
  obtain ⟨w, he, hd⟩ := exists_word_of_wf hi
  exact ⟨w, by simp only [assembleLine, h, he], hd⟩

/-! ### The number of legal words (R73) -/

/-- The legal words: OP names a row, and ARG is 0 unless the row takes an immediate. -/
theorem decode_isOk_iff (w : Word) :
    (decode w).isOk = true ↔
      rsvField w = 0#4 ∧ (opField w).toNat < 9 ∧
      ((opField w).toNat ∈ [0x0, 0x1, 0x2, 0x5, 0x6, 0x7] → argField w = 0#8) := by
  have hnot : (decode w).isOk = true ↔ ¬ ∃ e, decode w = .error e := by
    cases decode w <;> simp [Except.isOk, Except.toBool]
  rw [hnot, decode_eq_error_iff]
  push Not
  tauto

/-- The legal words by number: `m` is ARG, `k` the byte of OP and RSV. -/
theorem decode_ofNat_isOk_iff {m k : Nat} (hm : m < 256) (hk : k < 256) :
    (decode (BitVec.ofNat 16 (256 * m + k))).isOk = true ↔
      k < 9 ∧ (k ∈ [0x0, 0x1, 0x2, 0x5, 0x6, 0x7] → m = 0) := by
  have hw : (BitVec.ofNat 16 (256 * m + k)).toNat = 256 * m + k := Nat.mod_eq_of_lt (by omega)
  have hop : (256 * m + k) % 16 = k % 16 := by omega
  have hrsv : (256 * m + k) / 16 % 16 = k / 16 := by omega
  have harg : (256 * m + k) / 256 = m := by omega
  rw [decode_isOk_iff, ← BitVec.toNat_inj, ← BitVec.toNat_inj, rsvField_toNat, opField_toNat, argField_toNat,
    hw, hop, hrsv, harg, BitVec.toNat_zero, BitVec.toNat_zero]
  constructor
  · rintro ⟨h0, h9, himp⟩
    have hmod : k % 16 = k := by omega
    rw [hmod] at h9 himp
    exact ⟨h9, himp⟩
  · rintro ⟨h9, himp⟩
    have hmod : k % 16 = k := by omega
    rw [hmod]
    exact ⟨by omega, h9, himp⟩

/-- With ARG = 0 nine words are legal, with any other ARG three. -/
theorem count_legal_of_arg {m : Nat} (hm : m < 256) :
    Nat.count (fun k => (decode (BitVec.ofNat 16 (256 * m + k))).isOk = true) 256 =
      if m = 0 then 9 else 3 := by
  have hcongr : Nat.count (fun k => (decode (BitVec.ofNat 16 (256 * m + k))).isOk = true) 256 =
      Nat.count (fun k => k < 9 ∧ (k ∈ [0x0, 0x1, 0x2, 0x5, 0x6, 0x7] → m = 0)) 256 :=
    List.countP_congr fun k hk => by
      simpa only [decide_eq_true_eq] using decode_ofNat_isOk_iff hm (List.mem_range.mp hk)
  have hrest : Nat.count (fun k => 9 + k < 9 ∧ (9 + k ∈ [0x0, 0x1, 0x2, 0x5, 0x6, 0x7] → m = 0)) 247 = 0 :=
    Nat.count_of_forall_not fun k _ hlegal => absurd hlegal.1 (by omega)
  rw [hcongr, Nat.count_add _ 9 247, hrest]
  split
  · next h0 => simp only [h0]; decide
  · next h0 => simp only [h0]; decide

theorem count_legal_below {n : Nat} (h1 : 1 ≤ n) (hn : n ≤ 256) :
    Nat.count (fun k => (decode (BitVec.ofNat 16 k)).isOk = true) (256 * n) = 3 * n + 6 := by
  induction n, h1 using Nat.le_induction with
  | base => simpa using count_legal_of_arg (m := 0) (by decide)
  | succ n h1 ih =>
    have hn0 : n ≠ 0 := by omega
    rw [Nat.mul_succ, Nat.count_add, ih (by omega), count_legal_of_arg (by omega), if_neg hn0]
    omega

/-! ### The obligations -/

/-- Settles O1, by evaluation of each row. -/
theorem sampleWordsDecodeAsTabled : Obligations.SampleWordsDecodeAsTabled :=
  ⟨rfl, rfl, rfl, rfl, rfl, rfl, rfl, rfl, rfl, rfl, rfl, rfl⟩

/-- Settles O2: the word made of a command's opcode and immediate has them as its fields. -/
theorem decodeOfEncodeIsIdentity : Obligations.DecodeOfEncodeIsIdentity :=
  fun _ => exists_word_of_wf

/-- Settles O3: a word that decodes has RSV = 0, so its OP and ARG are the whole of it. -/
theorem encodeOfDecodeIsIdentity : Obligations.EncodeOfDecodeIsIdentity := by
  intro w i hd
  have he : encode i = some w := (decode_eq_ok_iff_encode w i).mp hd
  exact ⟨((encode_eq_some_iff i w).mp he).1, he⟩

/-- Settles O4: the illegal words as R73 lists them, and the fault the port raises before anything else. -/
theorem illegalWordsRaiseIllegalCommand : Obligations.IllegalWordsRaiseIllegalCommand := by
  refine fun w => ⟨decode_eq_error_iff w, fun s rest e hd hs hin => ?_⟩
  calc step s = accept (.command w) { s with inputs := rest } := step_of_inputs_cons hin
    _ = acceptCommand w { s with inputs := rest } := accept_command w hs
    _ = .next (raiseFault .illegalCommand (.word w) { s with inputs := rest }) := acceptCommand_of_error _ hd

/-- Settles O5: nine words with ARG = 0, three with each of the 255 other values. -/
theorem legalWordsNumber774 : Obligations.LegalWordsNumber774 := by
  have hcount := count_legal_below (n := 256) (by decide) (le_refl _)
  rw [Nat.count, List.countP_eq_length_filter] at hcount
  refine (congrArg List.length (List.filter_congr fun n _ => ?_)).trans hcount
  rw [Bool.decide_eq_true]
  cases decode (BitVec.ofNat 16 n) <;> rfl

/-- Settles O6: a row is selected exactly by the words of its mnemonic's commands. -/
theorem decodeFollowsOpcodeTable : Obligations.DecodeFollowsOpcodeTable := by
  refine ⟨fun w r hr => ?_, opcodeTable_disjoint, fun w s => ?_⟩
  · have hrow := selects_tableRow_iff r.mnemonic w
    rwa [← tableRow_of_mem hr] at hrow
  · cases hd : decode w with
    | ok i => exact .inl ⟨i, rfl⟩
    | error e => exact .inr (acceptCommand_of_error s hd)

/-- Settles O7: a line is the word of the term's command, or the reason the check gives. -/
theorem assemblerAcceptsExactlyEncodableTerms : Obligations.AssemblerAcceptsExactlyEncodableTerms := by
  rintro ⟨m, operand⟩
  cases hm : m.shape with
  | inl i =>
    obtain ⟨-, hnone, -⟩ := shape_inl hm
    cases operand with
    | none => exact assembleLine_of_check_ok (by simp only [AsmTerm.check, hm]) ((wf_iff i).mpr (by simp [hnone]))
    | some n => exact assembleLine_of_check_error (by simp only [AsmTerm.check, hm])
  | inr f =>
    cases operand with
    | none => exact assembleLine_of_check_error (by simp only [AsmTerm.check, hm])
    | some n =>
      obtain ⟨-, hsome, -⟩ := shape_inr hm n
      dsimp only
      split
      · next hn =>
        have himm : immOk n = true := decide_eq_true (Nat.lt_succ_of_le hn)
        exact assembleLine_of_check_ok (by simp only [AsmTerm.check, hm, himm, if_true])
          ((wf_iff_of_operand hsome).mpr (Nat.lt_succ_of_le hn))
      · next hn =>
        have himm : immOk n = false := decide_eq_false (by omega)
        exact assembleLine_of_check_error
          (by simp only [AsmTerm.check, hm, himm, Bool.false_eq_true, if_false])

/-- Settles O59: the command is ill formed, and its meaning refuses the number. -/
theorem unencodableImmediateIsRefused : Obligations.UnencodableImmediateIsRefused := by
  refine fun n s h => ⟨encode_eq_none rfl h, encode_eq_none rfl h, encode_eq_none rfl h, ?_, ?_, ?_⟩
  · rw [exec, execSearch, withImm8_of_le h]
  · rw [exec, execTargetSetup, withImm8_of_le h]
  · rw [exec, execCrcUpdate, withImm8_of_le h]

end Sys2Proof.Machine
end

section
/-!
PROOF. CHECK_ROM_CRC (spec/30_encoding.md R76) over the ports: when a CRC step gives 0
(44_crc8.md R164), what each of its requests does to the block, and its loop over the ROM
bytes, to its end or to the first unwritten byte.
-/

namespace Sys2Proof.Machine

/-! ### A CRC step that gives 0 (R160, R164) -/

/-- One iteration on a data byte of which nothing is left. -/
def crcShift (c : Byte) : Byte := if c &&& 1#8 = 1#8 then c >>> 1 ^^^ crcPoly else c >>> 1

/-- An iteration mixes CRC and data before it looks at them. -/
theorem crcIterations_succ (n : Nat) (c b : Byte) :
    crcIterations (n + 1) c b = crcIterations n (crcShift (c ^^^ b) ^^^ b >>> 1) (b >>> 1) := by
  have hshift : (c ^^^ b) >>> 1 = c >>> 1 ^^^ b >>> 1 := BitVec.ushiftRight_xor_distrib ..
  have hxor : c >>> 1 ^^^ b >>> 1 ^^^ b >>> 1 = c >>> 1 := by
    rw [BitVec.xor_assoc, BitVec.xor_self, BitVec.xor_zero]
  have hpoly : c >>> 1 ^^^ b >>> 1 ^^^ crcPoly ^^^ b >>> 1 = c >>> 1 ^^^ crcPoly := by
    rw [BitVec.xor_assoc _ crcPoly, BitVec.xor_comm crcPoly, ← BitVec.xor_assoc, hxor]
  rw [crcIterations, crcShift, hshift]
  split
  · rw [hpoly]
  · rw [hxor]

theorem crcIterations_succ_zero (n : Nat) (c : Byte) :
    crcIterations (n + 1) c 0#8 = crcIterations n (crcShift c) 0#8 := by
  rw [crcIterations_succ, BitVec.xor_zero, BitVec.zero_ushiftRight, BitVec.xor_zero]

/-- The remainder depends on the exclusive or of CRC and data; the data not yet shifted out stands beside
it. -/
theorem crcIterations_xor (n : Nat) (c b : Byte) :
    crcIterations n c b = crcIterations n (c ^^^ b) 0#8 ^^^ b >>> n := by
  induction n generalizing c b with
  | zero => simp [crcIterations]
  | succ n ih =>
    have hcancel : crcShift (c ^^^ b) ^^^ b >>> 1 ^^^ b >>> 1 = crcShift (c ^^^ b) := by
      rw [BitVec.xor_assoc, BitVec.xor_self, BitVec.xor_zero]
    rw [crcIterations_succ, ih, hcancel, crcIterations_succ_zero, Nat.add_comm n 1, BitVec.shiftRight_add]

theorem crcShift_eq_zero_iff : ∀ c : Byte, crcShift c = 0#8 ↔ c = 0#8 := by decide

theorem crcIterations_eq_zero_iff (n : Nat) (c : Byte) : crcIterations n c 0#8 = 0#8 ↔ c = 0#8 := by
  induction n generalizing c with
  | zero => rfl
  | succ n ih =>
    rw [crcIterations_succ_zero, ih, crcShift_eq_zero_iff]

/-- R164: a step gives 0 exactly when the data byte is the CRC. -/
theorem crcStep_eq_zero_iff (c b : Byte) : crcStep c b = 0x00#8 ↔ b = c := by
  have hout : b >>> 8 = 0#8 := BitVec.ushiftRight_eq_zero (le_refl 8)
  rw [crcStep, crcIterations_xor, hout, BitVec.xor_zero, crcIterations_eq_zero_iff, BitVec.xor_eq_zero_iff,
    eq_comm]

/-- Both tests of a ROM code: byte 7 is the CRC of bytes 0 to 6, or the CRC of all eight is 0. -/
theorem romCodeValid_eq_crc8_romBytes (a : Rom) : romCodeValid a = (crc8 (romBytes a) == 0x00#8) := by
  have hall : crc8 (romBytes a) = crcStep (crc8 ((romBytes a).take 7)) (romByte a 7) := rfl
  rw [romCodeValid, hall, Bool.eq_iff_iff, beq_iff_eq, beq_iff_eq, crcStep_eq_zero_iff, eq_comm]

/-! ### The requests of the check -/

/-- `t` is `s` but for CRC, which is `c`, and the host's answers. -/
def CrcOnly (s : State) (c : Byte) (t : State) : Prop := ∃ as, t = { s with crc := c, answers := as }

namespace CrcOnly

variable {s t u : State} {c d : Byte}

theorem rom (h : CrcOnly s c t) : t.rom = s.rom := by obtain ⟨as, rfl⟩ := h; rfl
theorem romW (h : CrcOnly s c t) : t.romW = s.romW := by obtain ⟨as, rfl⟩ := h; rfl
theorem crc (h : CrcOnly s c t) : t.crc = c := by obtain ⟨as, rfl⟩ := h; rfl

theorem running (h : CrcOnly s c t) (hs : isHalted s = false) : isHalted t = false := by
  obtain ⟨as, rfl⟩ := h
  exact hs

theorem trans (h : CrcOnly s c t) (h' : CrcOnly t d u) : CrcOnly s d u := by
  obtain ⟨as, rfl⟩ := h
  exact h'

/-- A read after the rest changes CRC no more. -/
theorem trans_read (h : CrcOnly s c t) (h' : CrcOnly t t.crc u) : CrcOnly s c u := by
  have hu := h.trans h'
  rwa [h.crc] at hu

end CrcOnly

/-- A command that writes CRC alone, issued to a running block. -/
theorem hostCommand_crcOnly {s : State} {i : Instr} {c : Byte} (hs : isHalted s = false) (hi : i.WF)
    (hx : exec i s = .next { s with crc := c }) :
    ∃ t, hostCommand i s = .value () t ∧ CrcOnly s c t := by
  obtain ⟨w, he, hd⟩ := exists_word_of_wf hi
  exact ⟨_, hostCommand_of_next hs he hd hx hs, _, rfl⟩

theorem hostCommand_crcClear {s : State} (hs : isHalted s = false) :
    ∃ t, hostCommand .crcClear s = .value () t ∧ CrcOnly s 0x00#8 t :=
  hostCommand_crcOnly hs rfl rfl

theorem hostCommand_crcUpdate {s : State} (hs : isHalted s = false) (b : Byte) :
    ∃ t, hostCommand (.crcUpdate b.toNat) s = .value () t ∧ CrcOnly s (crcStep s.crc b) t :=
  hostCommand_crcOnly hs ((wf_iff_of_operand rfl).mpr b.isLt) (by rw [exec, execCrcUpdate, withImm8_toNat])

/-- A read the running block answers keeps all of it. -/
theorem hostGet_crcOnly {s : State} {off v : Byte} (hs : isHalted s = false) (hr : regRead off s = .ok v) :
    ∃ t, hostGet off s = .value v t ∧ CrcOnly s s.crc t :=
  ⟨_, hostGet_of_ok hs hr, _, rfl⟩

theorem hostGet_crc {s : State} (hs : isHalted s = false) :
    ∃ t, hostGet RegName.crc.offset s = .value s.crc t ∧ CrcOnly s s.crc t :=
  hostGet_crcOnly hs rfl

theorem regRead_romByte_written {s : State} {i : Nat} (hi : i < 8) (hw : romByte s.romW i = 0xFF#8) :
    regRead (BitVec.ofNat 8 i) s = .ok (romByte s.rom i) := by
  have hoff : (BitVec.ofNat 8 i).toNat = i := Nat.mod_eq_of_lt (by omega)
  have h := regRead_rom_written (off := BitVec.ofNat 8 i) (s := s)
  rw [hoff] at h
  exact h (by omega) hw

theorem regRead_romByte_unwritten {s : State} {i : Nat} (hi : i < 8) (hw : romByte s.romW i ≠ 0xFF#8) :
    regRead (BitVec.ofNat 8 i) s = .error (.unwrittenRead, .host (BitVec.ofNat 8 i)) := by
  have hoff : (BitVec.ofNat 8 i).toNat = i := Nat.mod_eq_of_lt (by omega)
  apply regRead_rom_unwritten <;> rw [hoff]
  · omega
  · exact hw

/-- The state a read of the unwritten ROM byte `i` leaves (20_memory.md R52). -/
def haltAtByte (i : Nat) (s : State) : State := raiseFault .unwrittenRead (.host (BitVec.ofNat 8 i)) s

theorem hostGet_romByte_unwritten {s : State} {i : Nat} (hs : isHalted s = false) (hi : i < 8)
    (hw : romByte s.romW i ≠ 0xFF#8) :
    hostGet (BitVec.ofNat 8 i) s = .raised (haltAtByte i s) :=
  hostGet_of_error hs (regRead_romByte_unwritten hi hw) (by decide)

/-! ### The loop over the ROM bytes -/

/-- One round on a written byte. -/
theorem feedRomBytes_succ_written {s : State} {i : Nat} (n : Nat) (hs : isHalted s = false) (hi : i < 8)
    (hw : romByte s.romW i = 0xFF#8) :
    ∃ t, feedRomBytes (n + 1) i s = feedRomBytes n (i + 1) t ∧
      CrcOnly s (crcStep s.crc (romByte s.rom i)) t := by
  obtain ⟨t, hget, ht⟩ := hostGet_crcOnly hs (regRead_romByte_written hi hw)
  obtain ⟨u, hupdate, hu⟩ := hostCommand_crcUpdate (ht.running hs) (romByte s.rom i)
  refine ⟨u, ?_, ht.crc ▸ ht.trans hu⟩
  simp only [feedRomBytes, hget, hupdate, andThen_value]

theorem feedRomBytes_succ_unwritten {s : State} {i : Nat} (n : Nat) (hs : isHalted s = false) (hi : i < 8)
    (hw : romByte s.romW i ≠ 0xFF#8) :
    feedRomBytes (n + 1) i s = .raised (haltAtByte i s) := by
  simp only [feedRomBytes, hostGet_romByte_unwritten hs hi hw, andThen_raised]

/-- The rounds on `k` written bytes from byte `i` on, before `n` more. -/
theorem feedRomBytes_written {s : State} {k i : Nat} (n : Nat) (hs : isHalted s = false) (hki : i + k ≤ 8)
    (hw : ∀ j, i ≤ j → j < i + k → romByte s.romW j = 0xFF#8) :
    ∃ t, feedRomBytes (k + n) i s = feedRomBytes n (i + k) t ∧
      CrcOnly s (((List.range' i k).map (romByte s.rom)).foldl crcStep s.crc) t := by
  induction k generalizing s i with
  | zero => exact ⟨s, by rw [Nat.zero_add, Nat.add_zero], _, rfl⟩
  | succ k ih =>
    obtain ⟨t, hfeed, ht⟩ := feedRomBytes_succ_written (k + n) hs (by omega) (hw i (le_refl i) (by omega))
    obtain ⟨u, hrest, hu⟩ := ih (s := t) (i := i + 1) (ht.running hs) (by omega)
      fun j h1 h2 => ht.romW ▸ hw j (by omega) (by omega)
    rw [ht.rom, ht.crc] at hu
    refine ⟨u, ?_, ht.trans hu⟩
    calc feedRomBytes (k + 1 + n) i s = feedRomBytes (k + n + 1) i s := by rw [Nat.add_right_comm]
      _ = feedRomBytes n (i + 1 + k) u := hfeed.trans hrest
      _ = feedRomBytes n (i + (k + 1)) u := by rw [Nat.add_right_comm, Nat.add_assoc]

theorem take_romBytes (a : Rom) {k : Nat} (hk : k ≤ 8) :
    (romBytes a).take k = (List.range' 0 k).map (romByte a) := by
  rw [romBytes, ← List.map_take, List.take_range, Nat.min_eq_left hk, List.range_eq_range']

/-- CRC_CLEAR and the rounds on the first `k` bytes, all written, before `n` more. -/
theorem feedRomBytes_after_clear {s : State} {k : Nat} (n : Nat) (hs : isHalted s = false) (hk : k ≤ 8)
    (hw : ∀ j, j < k → romByte s.romW j = 0xFF#8) :
    ∃ t u, hostCommand .crcClear s = .value () t ∧ feedRomBytes (k + n) 0 t = feedRomBytes n k u ∧
      CrcOnly s (crc8 ((romBytes s.rom).take k)) u := by
  obtain ⟨t, hclear, ht⟩ := hostCommand_crcClear hs
  obtain ⟨u, hfeed, hu⟩ := feedRomBytes_written (i := 0) (k := k) n (ht.running hs) (by omega)
    fun j _ hj => ht.romW ▸ hw j (by omega)
  rw [Nat.zero_add] at hfeed
  rw [ht.rom, ht.crc, ← take_romBytes s.rom hk] at hu
  exact ⟨t, u, hclear, hfeed, ht.trans hu⟩

/-- The loop over `k` written bytes runs to its end. -/
theorem feedRomBytes_completes {s : State} {k : Nat} (hs : isHalted s = false) (hk : k ≤ 8)
    (hw : ∀ j, j < k → romByte s.romW j = 0xFF#8) :
    ∃ t u, hostCommand .crcClear s = .value () t ∧ feedRomBytes k 0 t = .value () u ∧
      CrcOnly s (crc8 ((romBytes s.rom).take k)) u :=
  feedRomBytes_after_clear 0 hs hk hw


/-- The loop halts at the first unwritten byte among those it feeds. -/
theorem feedRomBytes_halts {s : State} {k n : Nat} (hs : isHalted s = false) (hkn : k < n) (hn : n ≤ 8)
    (hk : romByte s.romW k ≠ 0xFF#8) (hw : ∀ j, j < k → romByte s.romW j = 0xFF#8) :
    ∃ t u, hostCommand .crcClear s = .value () t ∧ feedRomBytes n 0 t = .raised (haltAtByte k u) ∧
      CrcOnly s (crc8 ((romBytes s.rom).take k)) u := by
  obtain ⟨r, rfl⟩ := Nat.exists_eq_add_of_lt hkn
  obtain ⟨t, u, hclear, hfeed, hu⟩ := feedRomBytes_after_clear (r + 1) hs (by omega) hw
  refine ⟨t, u, hclear, hfeed.trans ?_, hu⟩
  exact feedRomBytes_succ_unwritten r (hu.running hs) (by omega) (hu.romW ▸ hk)

/-! ### The two forms -/

/-- The first form, once bytes 0 to 6 are fed, comes to the read of byte 7 with their CRC in hand. -/
theorem checkRomCrc_at_last_byte {s : State} (hs : isHalted s = false)
    (hw : ∀ j, j < 7 → romByte s.romW j = 0xFF#8) :
    ∃ t, CrcOnly s (crc8 ((romBytes s.rom).take 7)) t ∧
      checkRomCrc s = (hostGet (BitVec.ofNat 8 7) t).andThen fun r u =>
        .value (crc8 ((romBytes s.rom).take 7) == r) u := by
  obtain ⟨s1, s2, hclear, hfeed, h2⟩ := feedRomBytes_completes hs (by decide : 7 ≤ 8) hw
  obtain ⟨s3, hget, h3⟩ := hostGet_crc (h2.running hs)
  rw [h2.crc] at hget
  refine ⟨s3, h2.trans_read h3, ?_⟩
  simp only [checkRomCrc, hclear, hfeed, hget, andThen_value]
  rfl

theorem checkRomCrc_written {s : State} (hs : isHalted s = false)
    (hw : ∀ j, j < 8 → romByte s.romW j = 0xFF#8) :
    ∃ t, checkRomCrc s = .value (romCodeValid s.rom) t ∧ CrcOnly s (crc8 ((romBytes s.rom).take 7)) t := by
  obtain ⟨t, ht, hcheck⟩ := checkRomCrc_at_last_byte hs fun j hj => hw j (by omega)
  have hread : regRead (BitVec.ofNat 8 7) t = .ok (romByte s.rom 7) :=
    ht.rom ▸ regRead_romByte_written (by decide) (ht.romW ▸ hw 7 (by decide))
  obtain ⟨u, hget, hu⟩ := hostGet_crcOnly (ht.running hs) hread
  refine ⟨u, ?_, ht.trans_read hu⟩
  rw [hcheck, hget, andThen_value, romCodeValid]

theorem checkRomCrcAll_written {s : State} (hs : isHalted s = false)
    (hw : ∀ j, j < 8 → romByte s.romW j = 0xFF#8) :
    ∃ t, checkRomCrcAll s = .value (romCodeValid s.rom) t ∧ CrcOnly s (crc8 (romBytes s.rom)) t := by
  obtain ⟨s1, s2, hclear, hfeed, h2⟩ := feedRomBytes_completes hs (le_refl 8) hw
  have hall : (romBytes s.rom).take 8 = romBytes s.rom := rfl
  rw [hall] at h2
  obtain ⟨s3, hget, h3⟩ := hostGet_crc (h2.running hs)
  rw [h2.crc] at hget
  refine ⟨s3, ?_, h2.trans_read h3⟩
  simp only [checkRomCrcAll, hclear, hfeed, hget, andThen_value, romCodeValid_eq_crc8_romBytes]

theorem checkRomCrc_halts {s : State} {k : Nat} (hs : isHalted s = false) (hk8 : k < 8)
    (hk : romByte s.romW k ≠ 0xFF#8) (hw : ∀ j, j < k → romByte s.romW j = 0xFF#8) :
    ∃ t, checkRomCrc s = .raised (haltAtByte k t) ∧ CrcOnly s (crc8 ((romBytes s.rom).take k)) t := by
  obtain hk7 | rfl : k < 7 ∨ k = 7 := by omega
  · obtain ⟨t, u, hclear, hfeed, hu⟩ := feedRomBytes_halts hs hk7 (by decide) hk hw
    refine ⟨u, ?_, hu⟩
    simp only [checkRomCrc, hclear, hfeed, andThen_value, andThen_raised]
  · obtain ⟨t, ht, hcheck⟩ := checkRomCrc_at_last_byte hs hw
    refine ⟨t, ?_, ht⟩
    rw [hcheck, hostGet_romByte_unwritten (ht.running hs) hk8 (ht.romW ▸ hk), andThen_raised]

theorem checkRomCrcAll_halts {s : State} {k : Nat} (hs : isHalted s = false) (hk8 : k < 8)
    (hk : romByte s.romW k ≠ 0xFF#8) (hw : ∀ j, j < k → romByte s.romW j = 0xFF#8) :
    ∃ t, checkRomCrcAll s = .raised (haltAtByte k t) ∧ CrcOnly s (crc8 ((romBytes s.rom).take k)) t := by
  obtain ⟨t, u, hclear, hfeed, hu⟩ := feedRomBytes_halts hs hk8 (le_refl 8) hk hw
  refine ⟨u, ?_, hu⟩
  simp only [checkRomCrcAll, hclear, hfeed, andThen_value, andThen_raised]

theorem romByte_allWritten {i : Nat} (hi : i < 8) : romByte allWritten i = 0xFF#8 :=
  (romByte_eq_ones_iff _ _).mpr fun j hj => romBit_allWritten _ (by omega) (by omega)

/-- Settles O44: on a written ROM both forms feed their bytes to the end, and the two tests are one; else
both halt at the first unwritten byte. -/
theorem romCrcCheckFormsAgree : Obligations.RomCrcCheckFormsAgree := by
  refine fun s => ⟨fun hs hromW => ?written, fun k hs hk8 hk hw => ?unwritten, fun hs => ?halted⟩
  case written =>
    have hw : ∀ j, j < 8 → romByte s.romW j = 0xFF#8 := fun j hj => hromW ▸ romByte_allWritten hj
    obtain ⟨t, hcheck, as, rfl⟩ := checkRomCrc_written hs hw
    obtain ⟨u, hcheckAll, bs, rfl⟩ := checkRomCrcAll_written hs hw
    exact ⟨_, _, hcheck, hcheckAll, rfl, rfl⟩
  case unwritten =>
    obtain ⟨t, hcheck, as, rfl⟩ := checkRomCrc_halts hs hk8 hk hw
    obtain ⟨u, hcheckAll, bs, rfl⟩ := checkRomCrcAll_halts hs hk8 hk hw
    exact ⟨_, _, hcheck, hcheckAll, rfl, rfl⟩
  case halted =>
    constructor
    · rw [checkRomCrc, hostCommand_of_halted _ hs, andThen_raised]
    · rw [checkRomCrcAll, hostCommand_of_halted _ hs, andThen_raised]

end Sys2Proof.Machine
end

section
/-!
PROOF. The bus primitives (spec/40_bus_primitives.md): what BusWriteByte sends and BusReadByte takes (R94,
R95), how the reference bus answers the two reads of a position (R99), and how it receives a command byte
(R97, R98, R100).
-/

namespace Sys2Proof.Machine

/-! ### A byte taken bit by bit, low bit first -/

/-- The lowest `n` bits of a byte, the others 0: what has come of it after `n` bits. -/
def lowBits (b : Byte) (n : Nat) : Byte := (b.setWidth n).setWidth 8

theorem getLsbD_lowBits (b : Byte) (n j : Nat) :
    (lowBits b n).getLsbD j = (decide (j < n) && b.getLsbD j) := by
  by_cases hj : j < 8
  · simp [lowBits, hj]
  · simp [BitVec.getLsbD_of_ge _ j (Nat.not_lt.mp hj)]

@[simp] theorem lowBits_zero (b : Byte) : lowBits b 0 = 0x00#8 :=
  BitVec.eq_of_getLsbD_eq fun j _ => by simp [getLsbD_lowBits]

@[simp] theorem lowBits_eight (b : Byte) : lowBits b 8 = b :=
  BitVec.eq_of_getLsbD_eq fun j hj => by rw [getLsbD_lowBits, decide_eq_true hj, Bool.true_and]

/-- The next bit is put at its place. -/
theorem lowBits_succ (b : Byte) (n : Nat) :
    lowBits b n ||| ((BitVec.ofBool (b.getLsbD n)).setWidth 8 <<< n) = lowBits b (n + 1) := by
  refine BitVec.eq_of_getLsbD_eq fun j hj => ?_
  rw [BitVec.getLsbD_or, getLsbD_lowBits, getLsbD_lowBits]
  obtain hlt | rfl | hgt := Nat.lt_trichotomy j n
  · simp [hlt, Nat.lt_succ_of_lt hlt]
  · simp [hj]
  · have h0 : j - n ≠ 0 := by omega
    simp [h0, Nat.not_lt_of_gt hgt, show ¬ j < n + 1 by omega]

/-! ### BusWriteByte and BusReadByte (R94, R95) -/

/-- Each write is one `W` event, in ascending order of the bits. -/
theorem writeBitsFrom_history (b : Byte) (n i : Nat) (s : State) : (writeBitsFrom b n i s).history =
    s.history ++ (List.range' i n).map fun j => .w (b.getLsbD j) := by
  induction n generalizing i s with
  | zero => simp [writeBitsFrom]
  | succ n ih => simp [writeBitsFrom, ih, List.range'_succ]

theorem busWriteByte_history (b : Byte) (s : State) :
    (busWriteByte b s).history = s.history ++ commandEvents b := by
  rw [busWriteByte, writeBitsFrom_history, commandEvents, List.range_eq_range']

/-- A byte's bits, given in ascending order by the oracle's script, are put at their places. -/
theorem readBitsFrom_of_script (b : Byte) (rest : List Bool) (asked : Question) (n i : Nat) (s : State)
    (h : s.bus = .oracle ((List.range' i n).map b.getLsbD ++ rest) asked) :
    readBitsFrom n i (lowBits b i) s = (lowBits b (i + n), { s with
      bus := .oracle rest asked
      history := s.history ++ (List.range' i n).map fun j => .r (b.getLsbD j) }) := by
  induction n generalizing i s with
  | zero =>
    have hbus : s.bus = .oracle rest asked := h
    simp [readBitsFrom, ← hbus]
  | succ n ih =>
    have hread : onRead s.bus =
        (b.getLsbD i, .oracle ((List.range' (i + 1) n).map b.getLsbD ++ rest) asked) := by
      rw [h, List.range'_succ]
      rfl
    have hnext := ih (i + 1) (busReadBit s).2 (by rw [busReadBit_bus, hread])
    rw [readBitsFrom, busReadBit_answer, hread, lowBits_succ, hnext]
    simp only [busReadBit, hread, List.range'_succ, List.map_cons, List.append_assoc,
      List.singleton_append, Nat.add_right_comm i 1 n]
    rfl

/-- Settles O11: the events are `busWriteByte_history`, and `writeBitsFrom_keeps` says nothing else is
written. -/
theorem byteWriteSendsEightBitsLowFirst : Obligations.ByteWriteSendsEightBitsLowFirst := by
  intro b s
  refine ⟨busWriteByte_history b s, ?_⟩
  obtain ⟨bus, history, h⟩ := writeBitsFrom_keeps b 8 0 s
  rw [busWriteByte, h]

/-- Settles O12: the byte's eight bits are the script's next eight answers. -/
theorem byteReadTakesEightBitsLowFirst : Obligations.ByteReadTakesEightBitsLowFirst := by
  intro s b rest asked h
  rw [List.range_eq_range'] at h ⊢
  have hread := readBitsFrom_of_script b rest asked 8 0 s h
  rwa [lowBits_zero, Nat.zero_add, lowBits_eight] at hread

/-! ### The two reads of a position of the reference bus (R99) -/

theorem refRead_of_stuck {b : RefBus} (h : b.stuck = true) : refRead b = (false, b) := by
  simp [refRead, h]

/-- The first read: the wired-AND of the bit over the race. -/
theorem refRead_id {b : RefBus} (hs : b.stuck = false) (hr : b.rp = .id) :
    refRead b = (b.race.all fun d => romBit d b.kb, { b with rp := .cmp }) := by
  simp [refRead, hs, hr]

/-- The second read: the wired-AND of the complement over the race. -/
theorem refRead_cmp {b : RefBus} (hs : b.stuck = false) (hr : b.rp = .cmp) :
    refRead b = (b.race.all fun d => !romBit d b.kb, { b with rp := .id }) := by
  simp [refRead, hs, hr]

/-- After both reads the bus is back where it was. -/
theorem refRead_refRead {b : RefBus} (hs : b.stuck = false) (hr : b.rp = .id) :
    refRead (refRead b).2 = (b.race.all fun d => !romBit d b.kb, b) := by
  rw [refRead_id hs hr]
  exact (refRead_cmp (b := { b with rp := .cmp }) hs rfl).trans (by rw [← hr])

/-- The line is pulled low in the first read by a device whose bit is 0. -/
theorem all_romBit_eq_false_iff (l : List Rom) (k : Nat) :
    (l.all fun d => romBit d k) = false ↔ ∃ d ∈ l, romBit d k = false := by simp

/-- The line is pulled low in the second read by a device whose bit is 1. -/
theorem all_not_romBit_eq_false_iff (l : List Rom) (k : Nat) :
    (l.all fun d => !romBit d k) = false ↔ ∃ d ∈ l, romBit d k = true := by simp

/-- The two reads are never 1, 1 when a device is in the race. -/
theorem not_all_romBit_and_all_not {l : List Rom} (h : l ≠ []) (k : Nat) :
    ¬((l.all fun d => romBit d k) = true ∧ (l.all fun d => !romBit d k) = true) := by
  obtain ⟨d, hd⟩ := List.exists_mem_of_ne_nil _ h
  rintro ⟨hid, hcmp⟩
  have h1 := List.all_eq_true.mp hid d hd
  have h0 := List.all_eq_true.mp hcmp d hd
  simp [h1] at h0

/-- Settles O13: `refRead_id` and `refRead_refRead` give the two reads, and a 0 in either is some device's
bit. -/
theorem referenceReadsAreWiredAnd : Obligations.ReferenceReadsAreWiredAnd := by
  intro b hr
  refine ⟨fun hs => ?_, fun hs => ?_, fun hs hne => ?_, fun hs hnil => ?_, fun hs v hne hv => ?_,
    fun hs hone hzero => ?_⟩
  · rw [refRead_of_stuck hs, refRead_of_stuck hs]
    exact ⟨rfl, rfl⟩
  all_goals rw [refRead_refRead hs hr, refRead_id hs hr]
  · exact ⟨rfl, rfl⟩
  · exact not_all_romBit_and_all_not hne b.kb
  · simp [hnil]
  · obtain ⟨d, hd⟩ := List.exists_mem_of_ne_nil _ hne
    cases v with
    | false => exact ⟨(all_romBit_eq_false_iff _ _).mpr ⟨d, hd, hv d hd⟩, by simpa using hv⟩
    | true => exact ⟨by simpa using hv, (all_not_romBit_eq_false_iff _ _).mpr ⟨d, hd, hv d hd⟩⟩
  · exact ⟨(all_romBit_eq_false_iff _ _).mpr hzero, (all_not_romBit_eq_false_iff _ _).mpr hone⟩

/-! ### Receiving a command byte (R97, R98, R100) -/

/-- The reference bus when `n` bits of the command byte have been written since `RST`; with the eighth the
race is the participants. -/
def receiving (cmd : Byte) (b : RefBus) (n : Nat) : RefBus :=
  { b with
    race := if n = 8 then b.devices.filter (Config.participates cmd) else b.devices
    nw := n
    cmd := lowBits cmd n
    kb := 1
    rp := .id }

theorem refReset_eq_receiving (cmd : Byte) (b : RefBus) : (refReset b).2 = receiving cmd b 0 := by
  simp [refReset, receiving]

/-- A write while `NW < 8` is the next bit of the command byte. -/
theorem refWrite_receiving (cmd : Byte) (b : RefBus) {n : Nat} (h : n < 8) :
    refWrite (cmd.getLsbD n) (receiving cmd b n) = receiving cmd b (n + 1) := by
  have hcmd : (receiving cmd b n).cmd ||| ((BitVec.ofBool (cmd.getLsbD n)).setWidth 8 <<< n) =
      lowBits cmd (n + 1) := lowBits_succ cmd n
  have hnw : (receiving cmd b n).nw = n := rfl
  have hrace : (receiving cmd b n).race = b.devices := if_neg h.ne
  rw [refWrite, hnw, if_pos h, hcmd, hrace]
  by_cases h7 : n + 1 = 8
  · simp [receiving, h7]
  · simp [receiving, h7]

theorem writeBitsFrom_receiving (cmd : Byte) (b : RefBus) (n i : Nat) (s : State) (h8 : i + n ≤ 8)
    (h : s.bus = .reference (receiving cmd b i)) :
    (writeBitsFrom cmd n i s).bus = .reference (receiving cmd b (i + n)) := by
  induction n generalizing i s with
  | zero => exact h
  | succ n ih =>
    have hbit : (busWriteBit (cmd.getLsbD i) s).bus = .reference (receiving cmd b (i + 1)) := by
      rw [busWriteBit_bus, h, onWrite, refWrite_receiving cmd b (by omega)]
    rw [writeBitsFrom, ih (i + 1) _ (by omega) hbit, Nat.add_right_comm, Nat.add_assoc]

/-- `RST` and a command byte, on a reference bus in any state of its own. -/
theorem busWriteByte_busReset_bus (cmd : Byte) {s : State} {b : RefBus} (h : s.bus = .reference b) :
    (busWriteByte cmd (busReset s).2).bus = .reference (receiving cmd b 8) := by
  have hrst : (busReset s).2.bus = .reference (receiving cmd b 0) := by
    rw [busReset_bus, h, onReset, refReset_eq_receiving cmd]
  exact writeBitsFrom_receiving cmd b 8 0 _ le_rfl hrst

/-- Settles O14: after the eighth bit the bus is `receiving cmd b 8`. -/
theorem referenceBusReceivesCommandByte : Obligations.ReferenceBusReceivesCommandByte := by
  intro cmd s b h
  refine ⟨by rw [busReset_answer, h]; rfl, ?_⟩
  rw [busWriteByte_busReset_bus cmd h, receiving, lowBits_eight, if_pos rfl]

end Sys2Proof.Machine
end

section
/-!
PROOF. A pass on the reference bus (spec/40_bus_primitives.md R97 to R101): at every position the bus is
known from ROM, the race is never empty, and the last device in it is the one the pass holds.
-/

namespace Sys2Proof.Machine

/-! ### The devices in the race (R97, R100) -/

/-- Codes `a` and `d` have the same bits at the positions below `K`. -/
def agreesBelow (a : Rom) (K : Nat) (d : Rom) : Bool :=
  decide (∀ k, k < K → 1 ≤ k → romBit d k = romBit a k)

theorem agreesBelow_iff (a : Rom) (K : Nat) (d : Rom) :
    agreesBelow a K d = true ↔ ∀ k, k < K → 1 ≤ k → romBit d k = romBit a k := decide_eq_true_iff

theorem agreesBelow_one (a d : Rom) : agreesBelow a 1 d = true :=
  (agreesBelow_iff a 1 d).mpr fun _ hk h1 => absurd hk (by omega)

theorem eq_of_agreesBelow {a d : Rom} (h : agreesBelow a 65 d = true) : d = a :=
  rom_ext d a fun k h1 h64 => (agreesBelow_iff a 65 d).mp h k (by omega) h1

/-- A direction written at `K` keeps the codes that have this bit there. -/
theorem agreesBelow_setRomBit (a d : Rom) {K : Nat} (v : Bool) (h1 : 1 ≤ K) (h64 : K ≤ 64) :
    agreesBelow (setRomBit a K v) (K + 1) d = (romBit d K == v && agreesBelow a K d) := by
  rw [Bool.eq_iff_iff, Bool.and_eq_true, beq_iff_eq, agreesBelow_iff, agreesBelow_iff]
  have hself := romBit_setRomBit_self a K v h1 h64
  have hother := fun k (hk1 : 1 ≤ k) (hk : k ≠ K) => romBit_setRomBit_other a K k v h1 hk1 hk
  constructor
  · intro h
    refine ⟨(h K (Nat.lt_succ_self K) h1).trans hself, fun k hk hk1 => ?_⟩
    rw [h k (Nat.lt_succ_of_lt hk) hk1, hother k hk1 hk.ne]
  · rintro ⟨hK, h⟩ k hk hk1
    by_cases hkK : k = K
    · rw [hkK, hself, hK]
    · rw [hother k hk1 hkK, h k (by omega) hk1]

/-- The devices still in the race when a pass that has written `a` comes to position `K`: the participants
that agree with `a` so far. -/
def contenders (cmd : Byte) (b : RefBus) (a : Rom) (K : Nat) : List Rom :=
  (b.devices.filter (Config.participates cmd)).filter (agreesBelow a K)

theorem mem_contenders (cmd : Byte) (b : RefBus) (a : Rom) (K : Nat) (d : Rom) :
    d ∈ contenders cmd b a K ↔
      d ∈ b.devices ∧ Config.participates cmd d = true ∧ agreesBelow a K d = true := by
  simp only [contenders, List.mem_filter, and_assoc]

theorem contenders_one (cmd : Byte) (b : RefBus) (a : Rom) :
    contenders cmd b a 1 = b.devices.filter (Config.participates cmd) :=
  List.filter_eq_self.mpr fun d _ => agreesBelow_one a d

theorem contenders_setRomBit (cmd : Byte) (b : RefBus) (a : Rom) {K : Nat} (v : Bool) (h1 : 1 ≤ K)
    (h64 : K ≤ 64) : contenders cmd b (setRomBit a K v) (K + 1) =
      (contenders cmd b a K).filter fun d => romBit d K == v := by
  conv_rhs => rw [contenders, List.filter_filter]
  exact List.filter_congr fun d _ => agreesBelow_setRomBit a d v h1 h64

/-! ### The bus at a position -/

/-- The reference bus when a pass that has written `a` comes to position `K`. -/
def racingBus (cmd : Byte) (b : RefBus) (a : Rom) (K : Nat) : RefBus :=
  { b with race := contenders cmd b a K, nw := 7 + K, cmd := cmd, kb := K, rp := .id }

theorem receiving_eight (cmd : Byte) (b : RefBus) (a : Rom) : receiving cmd b 8 = racingBus cmd b a 1 := by
  rw [receiving, racingBus, contenders_one, lowBits_eight, if_pos rfl]

/-- The two reads of a position leave the bus as it was. -/
theorem onRead_onRead_racingBus (cmd : Byte) {b : RefBus} (a : Rom) (K : Nat) (hs : b.stuck = false) :
    (onRead (onRead (.reference (racingBus cmd b a K))).2).2 = .reference (racingBus cmd b a K) := by
  rw [onRead, onRead, refRead_refRead (b := racingBus cmd b a K) hs rfl]

/-- The direction written back takes the bus to the next position. -/
theorem refWrite_racingBus (cmd : Byte) (b : RefBus) (a : Rom) {K : Nat} (v : Bool) (h1 : 1 ≤ K)
    (h64 : K ≤ 64) :
    refWrite v (racingBus cmd b a K) = racingBus cmd b (setRomBit a K v) (K + 1) := by
  have hnw : ¬(racingBus cmd b a K).nw < 8 := Nat.not_lt.mpr (Nat.add_le_add_left h1 7)
  rw [refWrite, if_neg hnw, racingBus, racingBus, contenders_setRomBit cmd b a v h1 h64]
  rfl

/-! ### One position -/

@[simp] theorem withDirection_rom (K : Nat) (d z : Bool) (s : State) : (withDirection K d z s).rom = s.rom := by
  unfold withDirection
  split <;> rfl

@[simp] theorem withDirection_bus (K : Nat) (d z : Bool) (s : State) : (withDirection K d z s).bus = s.bus := by
  unfold withDirection
  split <;> rfl

@[simp] theorem withDirection_ok (K : Nat) (d z : Bool) (s : State) : (withDirection K d z s).ok = s.ok := by
  unfold withDirection
  split <;> rfl

@[simp] theorem writeDirection_rom (K : Nat) (s : State) :
    (writeDirection K s).rom = setRomBit s.rom K s.dir := rfl

@[simp] theorem writeDirection_bus (K : Nat) (s : State) : (writeDirection K s).bus = onWrite s.dir s.bus := rfl

@[simp] theorem writeDirection_ok (K : Nat) (s : State) : (writeDirection K s).ok = s.ok := rfl

/-- Writing a position leaves no position unwritten that was written before. -/
theorem writtenBelow_setRomBit_of_writtenBelow {w : Rom} {K n : Nat} (h1 : 1 ≤ K) (h64 : K ≤ 64)
    (h : WrittenBelow w n) : WrittenBelow (setRomBit w K true) n := by
  intro k hk1 hk
  by_cases hkK : k = K
  · rw [hkK, romBit_setRomBit_self w K true h1 h64]
  · rw [romBit_setRomBit_other w K k true h1 hk1 hkK, h k hk1 hk]

/-- A pass with command byte `cmd` on the reference bus `b` has come to position `K` in state `s`. -/
structure Racing (cmd : Byte) (b : RefBus) (K : Nat) (s : State) : Prop where
  bus       : s.bus = .reference (racingBus cmd b s.rom K)
  contested : contenders cmd b s.rom K ≠ []
  replay    : WrittenBelow s.romW s.ld.toNat
  ok        : s.ok = true

section
variable {cmd : Byte} {b : RefBus} {K : Nat} {s : State}

/-- The answers at a position are the wired-AND of the race (R99). -/
theorem Racing.answersAt_eq (h : Racing cmd b K s) (hs : b.stuck = false) : answersAt s =
    ((contenders cmd b s.rom K).all fun d => romBit d K,
      (contenders cmd b s.rom K).all fun d => !romBit d K) := by
  have hid := refRead_id (b := racingBus cmd b s.rom K) hs rfl
  have hcmp := refRead_refRead (b := racingBus cmd b s.rom K) hs rfl
  simp only [answersAt, h.bus, onRead, hcmp]
  rw [hid]
  rfl

/-- A first answer 0 is the bit of a device in the race. -/
theorem Racing.exists_zero (h : Racing cmd b K s) (hs : b.stuck = false) (ha : (answersAt s).1 = false) :
    ∃ d ∈ contenders cmd b s.rom K, romBit d K = false := by
  rw [h.answersAt_eq hs] at ha
  exact (all_romBit_eq_false_iff _ _).mp ha

/-- A second answer 0 is the complement of the bit of a device in the race. -/
theorem Racing.exists_one (h : Racing cmd b K s) (hs : b.stuck = false) (ha : (answersAt s).2 = false) :
    ∃ d ∈ contenders cmd b s.rom K, romBit d K = true := by
  rw [h.answersAt_eq hs] at ha
  exact (all_not_romBit_eq_false_iff _ _).mp ha

/-- With a device in the race the answers are never 1, 1 (R99, R101). -/
theorem Racing.not_nobody (h : Racing cmd b K s) (hs : b.stuck = false) :
    ¬((answersAt s).1 = true ∧ (answersAt s).2 = true) := by
  rw [h.answersAt_eq hs]
  exact not_all_romBit_and_all_not h.contested K

/-- A direction that some device in the race has takes the pass to the next position. -/
theorem Racing.directed (h : Racing cmd b K s) (hs : b.stuck = false) (h1 : 1 ≤ K) (h64 : K ≤ 64) (v z : Bool)
    (hv : ∃ d ∈ contenders cmd b s.rom K, romBit d K = v) :
    Racing cmd b (K + 1) (writeDirection K (withDirection K v z (afterReads K s))) := by
  have hrom : (writeDirection K (withDirection K v z (afterReads K s))).rom = setRomBit s.rom K v := by simp
  constructor
  case bus =>
    rw [hrom, ← refWrite_racingBus cmd b s.rom v h1 h64]
    simp [h.bus, onRead_onRead_racingBus cmd s.rom K hs, onWrite]
  case contested =>
    obtain ⟨d, hd, hdv⟩ := hv
    rw [hrom, contenders_setRomBit cmd b s.rom v h1 h64]
    exact List.ne_nil_of_mem (List.mem_filter.mpr ⟨hd, beq_iff_eq.mpr hdv⟩)
  case replay =>
    rw [writeDirection_romW, withDirection_romW, afterReads_romW, (writeDirection_positionKeeps K _).ld,
      (withDirection_positionKeeps K v z _).ld, afterReads_ld]
    exact writtenBelow_setRomBit_of_writtenBelow h1 h64 h.replay
  case ok => simpa using h.ok

/-- A position of a pass on the reference bus goes on: nobody is missing, no replay is unwritten, and the
direction taken is the bit of a device in the race. -/
theorem discStep_racing (h : Racing cmd b K s) (hs : b.stuck = false) (h1 : 1 ≤ K) (h64 : K ≤ 64) :
    ∃ t, discStep K s = .value .go t ∧ Racing cmd b (K + 1) t := by
  obtain ⟨hid, hcmp, -⟩ | ⟨hne, g⟩ | ⟨hid, hcmp, -, g⟩ | ⟨-, -, hk, hw, -⟩ := discStep_cases K s
  · exact absurd ⟨hid, hcmp⟩ (h.not_nobody hs)
  · refine ⟨_, g, h.directed hs h1 h64 _ _ ?_⟩
    cases hid : (answersAt s).1 with
    | false => exact h.exists_zero hs hid
    | true => exact h.exists_one hs (by simpa [hid] using hne.symm)
  · refine ⟨_, g, h.directed hs h1 h64 _ _ ?_⟩
    generalize (if K < s.ld.toNat then romBit s.rom K else K == s.ld.toNat) = v
    cases v with
    | false => exact h.exists_zero hs hid
    | true => exact h.exists_one hs hcmp
  · exact absurd (h.replay K h1 hk) (by simp [hw])

end

/-! ### The pass -/

theorem positions_racing {cmd : Byte} {b : RefBus} (hs : b.stuck = false) (n : Nat) (hn : n ≤ 64) {s : State}
    (h : Racing cmd b (65 - n) s) : ∃ t, positions n s = .value .go t ∧ Racing cmd b 65 t := by
  induction n generalizing s with
  | zero => exact ⟨s, rfl, h⟩
  | succ n ih =>
    have hK : 65 - (n + 1) = 64 - n := by omega
    have hnext : 64 - n + 1 = 65 - n := by omega
    obtain ⟨t, ht, hrace⟩ := discStep_racing (hK ▸ h) hs (by omega) (by omega)
    obtain ⟨u, hu, hend⟩ := ih (by omega) (hnext ▸ hrace)
    exact ⟨u, by rw [positions, ht]; exact hu, hend⟩

/-- The positions of a pass start with the participants in the race (R97, R100). -/
theorem racing_passStart {cmd : Byte} {b : RefBus} {s : State} (hb : s.bus = .reference b)
    (hp : HasParticipant b cmd) (hw : WrittenBelow s.romW s.ld.toNat) : Racing cmd b 1 (passStart cmd s) := by
  obtain ⟨bus, history, hkeep⟩ := writeBitsFrom_keeps cmd 8 0 (afterPresence s)
  have hrst : { s with ph := .rst, outcome := none }.bus = .reference b := hb
  constructor
  case bus =>
    rw [← receiving_eight]
    exact busWriteByte_busReset_bus cmd hrst
  case contested =>
    obtain ⟨d, hd, hj⟩ := hp.joins
    rw [contenders_one]
    exact List.ne_nil_of_mem (List.mem_filter.mpr ⟨hd, hj⟩)
  case replay =>
    rw [passStart, busWriteByte, hkeep]
    exact hw
  case ok => rfl

/-- A bus with a participant reports presence (R98). -/
theorem HasParticipant.presence {b : RefBus} {cmd : Byte} (h : HasParticipant b cmd) :
    (onReset (.reference b)).1 = true := by
  obtain ⟨d, hd, -⟩ := h.joins
  simp [onReset, refReset, h.free, List.ne_nil_of_mem hd]

/-- After all 64 positions ROM is the code of a participant. -/
theorem Racing.rom_mem {cmd : Byte} {b : RefBus} {s : State} (h : Racing cmd b 65 s) :
    s.rom ∈ b.devices ∧ Config.participates cmd s.rom = true := by
  obtain ⟨d, hd⟩ := List.exists_mem_of_ne_nil _ h.contested
  obtain ⟨hdev, hpart, hagree⟩ := (mem_contenders cmd b s.rom 65 d).mp hd
  rw [← eq_of_agreesBelow hagree]
  exact ⟨hdev, hpart⟩

theorem passStart_noRaise (cmd : Byte) (s : State) : NoRaise s (passStart cmd s) :=
  ⟨(busWriteByte_noRaise cmd (afterPresence s)).fault, (busWriteByte_noRaise cmd (afterPresence s)).faultInfo⟩

/-- A pass on the reference bus with a participant comes to the end of its positions (R101). -/
theorem searchCore_reference {cmd : Byte} {b : RefBus} {s : State} (hf : s.ldf = false)
    (hb : s.bus = .reference b) (hp : HasParticipant b cmd) (hw : WrittenBelow s.romW s.ld.toNat) :
    ∃ u, positions 64 (passStart cmd s) = .value .go u ∧ searchCore cmd s = concludePass u ∧
      Racing cmd b 65 u ∧ u.romW = allWritten ∧ NoRaise s u := by
  obtain ⟨u, hu, hend⟩ := positions_racing hp.free 64 le_rfl (racing_passStart hb hp hw)
  have hkept := (passStart_noRaise cmd s).trans (positions_noRaise _ _ _ _ hu)
  refine ⟨u, hu, ?_, hend, positions_all_written hu hend.ok, hkept⟩
  rw [searchCore_eq, hf, hb, hp.presence, hu]
  rfl

/-! ### The search commands -/

/-- A search command is a pass and its report (41_search.md R111 to R113). -/
theorem PassStart.exec_eq {i : Instr} {s s0 : State} {cmd : Byte} (h : PassStart i s s0 cmd) :
    exec i s = .next (afterSearch cmd s0) := by
  obtain ⟨rfl, rfl, rfl⟩ | ⟨rfl, rfl, rfl⟩ | ⟨n, rfl, hn, rfl, rfl⟩ := h
  · rfl
  · rfl
  · exact withImm8_of_lt hn fun c => .next (afterSearch c _)

/-- A pass starts from the command's own state, but for the session that FIRST clears. -/
theorem PassStart.start_eq {i : Instr} {s s0 : State} {cmd : Byte} (h : PassStart i s s0 cmd) :
    s0 = { s with ld := s0.ld, lfd := s0.lfd, ldf := s0.ldf } := by
  obtain ⟨-, rfl, -⟩ | ⟨-, rfl, -⟩ | ⟨-, -, -, rfl, -⟩ := h <;> rfl

/-- Settles O30: the pass comes to the end of its positions by `searchCore_reference`, and its conclusion
depends on whether the device is the all-zero code. -/
theorem passOnReferenceBusFindsADevice : Obligations.PassOnReferenceBusFindsADevice := by
  intro i s s0 cmd b hstart hf hb hp hw
  have hs0 := hstart.start_eq
  have hb0 : s0.bus = .reference b := by rw [hs0]; exact hb
  obtain ⟨u, -, hcore, hend, hall, hkept⟩ := searchCore_reference hf hb0 hp hw
  have hfault : u.fault = s.fault := by rw [hkept.fault, hs0]
  obtain ⟨hmem, hpart⟩ := hend.rom_mem
  have hbus : BusOf b u.bus := ⟨_, hend.bus, rfl, rfl⟩
  refine ⟨_, hstart.exec_eq, ?_⟩
  rw [afterSearch, hcore]
  by_cases hz : u.rom = 0#64
  · rw [concludePass_zero u hend.ok hz]
    exact ⟨hfault, hmem, hpart, hall, hbus, fun h => absurd hz h, fun _ => ⟨rfl, rfl, rfl, rfl⟩⟩
  · rw [concludePass_found u hend.ok hz]
    exact ⟨hfault, hmem, hpart, hall, hbus, fun _ => ⟨rfl, rfl⟩, fun h => absurd h hz⟩

end Sys2Proof.Machine
end

section
/-!
PROOF. The bus events of a pass (spec/41_search.md R125): what a position, the 64 positions and the whole pass
append to the history, and so what every command does.
-/

namespace Sys2Proof.Machine

/-! ### One position -/

@[simp] theorem withDirection_history (K : Nat) (d z : Bool) (s : State) :
    (withDirection K d z s).history = s.history := by
  unfold withDirection
  split <;> rfl

@[simp] theorem writeDirection_history (K : Nat) (s : State) :
    (writeDirection K s).history = s.history ++ [.w s.dir] := rfl

theorem directed_history (K : Nat) (d z : Bool) (s : State) :
    (writeDirection K (withDirection K d z (afterReads K s))).history =
      s.history ++ [.r (answersAt s).1, .r (answersAt s).2, .w d] := by
  simp

/-- A position issues its two reads, and the direction if the pass goes on (R118). -/
theorem discStep_events (K : Nat) (s : State) : ∃ events,
    (flowState (discStep K s)).history = s.history ++ events ∧
    ((∃ t, discStep K s = .value .go t) ∧ events.length = 3 ∨
      (∀ t, discStep K s ≠ .value .go t) ∧ events.length = 2) := by
  obtain ⟨-, -, h⟩ | ⟨-, h⟩ | ⟨-, -, -, h⟩ | ⟨-, -, -, -, h⟩ := discStep_cases K s <;> rw [h]
  · exact ⟨[.r (answersAt s).1, .r (answersAt s).2], by simp [flowState], .inr ⟨by simp, rfl⟩⟩
  · exact ⟨_, directed_history K _ _ s, .inl ⟨⟨_, rfl⟩, rfl⟩⟩
  · exact ⟨_, directed_history K _ _ s, .inl ⟨⟨_, rfl⟩, rfl⟩⟩
  · exact ⟨[.r (answersAt s).1, .r (answersAt s).2], by simp [flowState], .inr ⟨by simp, rfl⟩⟩

/-! ### The 64 positions -/

theorem positions_succ_of_go {n : Nat} {s t : State} (h : discStep (64 - n) s = .value .go t) :
    positions (n + 1) s = positions n t := by
  rw [positions, h]

/-- A position at which the pass does not go on ends the positions. -/
theorem positions_succ_of_stop {n : Nat} {s : State} (h : ∀ t, discStep (64 - n) s ≠ .value .go t) :
    positions (n + 1) s = discStep (64 - n) s := by
  rw [positions]
  cases hd : discStep (64 - n) s with
  | raised t => rfl
  | value r t =>
    cases r with
    | abort => rfl
    | go => exact absurd hd (h t)

/-- The last `n` positions issue `3*n` events, or stop after the two reads of one of them. -/
theorem positions_events (n : Nat) (s : State) : ∃ events,
    (flowState (positions n s)).history = s.history ++ events ∧
    ((∃ t, positions n s = .value .go t) ∧ events.length = 3 * n ∨
      (∀ t, positions n s ≠ .value .go t) ∧ ∃ j, j < n ∧ events.length = 3 * j + 2) := by
  induction n generalizing s with
  | zero => exact ⟨[], (List.append_nil _).symm, .inl ⟨⟨s, rfl⟩, rfl⟩⟩
  | succ n ih =>
    obtain ⟨first, hfirst, ⟨⟨t, hgo⟩, h3⟩ | ⟨hstop, h2⟩⟩ := discStep_events (64 - n) s
    · obtain ⟨events, he, hcount⟩ := ih t
      rw [hgo, flowState] at hfirst
      rw [positions_succ_of_go hgo]
      refine ⟨first ++ events, by rw [he, hfirst, List.append_assoc], ?_⟩
      rw [List.length_append, h3]
      obtain ⟨hend, hlen⟩ | ⟨hend, j, hj, hlen⟩ := hcount
      · exact .inl ⟨hend, by omega⟩
      · exact .inr ⟨hend, j + 1, by omega, by omega⟩
    · rw [positions_succ_of_stop hstop]
      exact ⟨first, hfirst, .inr ⟨hstop, 0, Nat.succ_pos n, h2⟩⟩

/-! ### The pass -/

@[simp] theorem commandEvents_length (b : Byte) : (commandEvents b).length = 8 := by
  simp [commandEvents]

/-- The events before the first position: `RST` and the command byte (R114 steps 2 and 3). -/
theorem passStart_history (cmd : Byte) (s : State) :
    (passStart cmd s).history = s.history ++ (.rst (onReset s.bus).1 :: commandEvents cmd) := by
  have h : (busWriteByte cmd (afterPresence s)).history =
      s.history ++ [.rst (onReset s.bus).1] ++ commandEvents cmd := busWriteByte_history cmd (afterPresence s)
  rw [List.append_cons, ← h]
  rfl

theorem concludePass_history {s t : State} {o : PassOutcome} (h : concludePass s = .value o t) :
    t.history = s.history := by
  obtain ⟨o', u, hu, hut⟩ := concludePass_value s
  rw [hu] at h
  cases h
  rw [hut]

theorem flowState_concludePositions_history (x : Flow Resolution) :
    (flowState (concludePositions x)).history = (flowState x).history := by
  cases x with
  | raised t => rfl
  | value r t =>
    obtain ⟨o, u, hu, hut⟩ := concludePass_value t
    rw [concludePositions, hu]
    exact concludePass_history hu

/-- The numbers of events R125 allows a pass that is not exhausted: 1 without presence, `3*K + 8` when it
stops at position `K`, 201 when it comes to the end. -/
def PassCount (n : Nat) : Prop := n = 1 ∨ n = 201 ∨ ∃ K, 1 ≤ K ∧ K ≤ 64 ∧ n = 3 * K + 8

/-- A pass with LDF = 0 issues its `RST`, and a number of events R125 allows. -/
theorem searchCore_events (cmd : Byte) {s : State} (h : s.ldf = false) : ∃ events,
    (flowState (searchCore cmd s)).history = s.history ++ (.rst (onReset s.bus).1 :: events) ∧
    PassCount (events.length + 1) := by
  rw [searchCore_eq, h, if_neg Bool.false_ne_true]
  split
  · obtain ⟨events, he, hcount⟩ := positions_events 64 (passStart cmd s)
    refine ⟨commandEvents cmd ++ events, ?_, ?_⟩
    · rw [flowState_concludePositions_history, he, passStart_history, List.append_assoc, List.cons_append]
    · rw [List.length_append, commandEvents_length]
      obtain ⟨-, hlen⟩ | ⟨-, j, hj, hlen⟩ := hcount
      · exact .inr (.inl (by omega))
      · exact .inr (.inr ⟨j + 1, by omega, by omega, by omega⟩)
  · exact ⟨[], rfl, .inl rfl⟩

theorem endSearch_history (x : Flow PassOutcome) : (endSearch x).history = (flowState x).history := by
  cases x <;> rfl

theorem endVerify_history (x : Flow PassOutcome) : (endVerify x).history = (flowState x).history := by
  cases x with
  | raised t => rfl
  | value o t =>
    obtain ⟨same, h, -⟩ | ⟨-, -, h⟩ := compareSaved_cases (isFound o) t
    · rw [endVerify_of_value h]
      rfl
    · rw [endVerify_of_raised h]
      rfl

/-! ### The commands -/

/-- The events of a search command: none when exhausted, else those of its pass. -/
theorem afterSearch_events (cmd : Byte) (s : State) : ∃ events,
    (afterSearch cmd s).history = s.history ++ events ∧
    (events = [] ∨ PassCount events.length) ∧ (s.ldf = false → events ≠ []) := by
  rw [afterSearch, endSearch_history]
  cases h : s.ldf with
  | true => exact ⟨[], by rw [searchCore_exhausted cmd h, List.append_nil]; rfl, .inl rfl, by simp⟩
  | false =>
    obtain ⟨events, he, hcount⟩ := searchCore_events cmd h
    exact ⟨_, he, .inr hcount, by simp⟩

theorem afterVerify_events (s : State) : ∃ events,
    (afterVerify s).history = s.history ++ events ∧ events ≠ [] ∧ PassCount events.length := by
  obtain ⟨events, he, hcount⟩ := searchCore_events Config.searchCommand (s := verifyStart s) rfl
  exact ⟨_, (endVerify_history _).trans he, by simp, hcount⟩

/-- The events of every command: none without a pass, none at most when a pass is exhausted, which the pass
of FIRST and of VERIFY never is. -/
theorem effect_events (i : Instr) (s : State) : ∃ events,
    (effect i s).history = s.history ++ events ∧ (runsPass i = false → events = []) ∧
    (i = .first ∨ i = .verify → events ≠ []) ∧ (events = [] ∨ PassCount events.length) := by
  cases i with
  | first =>
    obtain ⟨events, he, hcount, hloud⟩ := afterSearch_events Config.searchCommand (clearSession s)
    exact ⟨events, he, by simp [runsPass], fun _ => hloud rfl, hcount⟩
  | next | search =>
    obtain ⟨events, he, hcount, -⟩ := afterSearch_events _ s
    exact ⟨events, he, by simp [runsPass], by simp, hcount⟩
  | verify =>
    obtain ⟨events, he, hloud, hcount⟩ := afterVerify_events s
    exact ⟨events, he, by simp [runsPass], fun _ => hloud, .inr hcount⟩
  | resetSearch | targetSetup | familySkipSetup | crcClear | crcUpdate =>
    exact ⟨[], (List.append_nil _).symm, fun _ => rfl, by simp, .inl rfl⟩

/-- Settles O27: every command's events are counted by `effect_events`. -/
theorem commandsIssueAtMost201Events : Obligations.CommandsIssueAtMost201Events := by
  intro i s hwf
  obtain ⟨events, he, hquiet, hloud, hcount⟩ := effect_events i s
  refine ⟨effect i s, events, (exec_next_iff i s _).mpr ⟨hwf, rfl⟩, he, hquiet, hloud, ?_⟩
  exact hcount.imp_left List.length_eq_zero_iff.mpr

end Sys2Proof.Machine
end

section
/-!
PROOF. The search commands as the host sees them (spec/41_search.md R110 to R116): what they leave when no
position is visited, and when they complete without a fault.
-/

namespace Sys2Proof.Machine

/-- Settles O15: RESET_SEARCH is `clearSession`, which FIRST does once more. -/
theorem resetSearchClearsSession : Obligations.ResetSearchClearsSession :=
  ⟨rfl, fun _ => ⟨rfl, rfl, rfl⟩⟩

/-- Settles O16: SEARCH_COMMAND is a byte, so as an immediate it is itself. -/
theorem firstAndNextAreSearches : Obligations.FirstAndNextAreSearches := by
  have search : ∀ s : State, exec (.search Config.searchCommand.toNat) s =
      .next (afterSearch Config.searchCommand s) := fun s => by
    rw [exec, execSearch, withImm8_toNat, afterSearch]
  exact fun s => ⟨(search _).symm, (search _).symm⟩

/-- A pass can start with LDF = 1 only in NEXT and SEARCH, whose session is the command's own (R115). -/
theorem PassStart.eq_of_ldf {i : Instr} {s s0 : State} {cmd : Byte} (h : PassStart i s s0 cmd)
    (hf : s0.ldf = true) : s0 = s := by
  obtain ⟨-, rfl, -⟩ | ⟨-, rfl, -⟩ | ⟨-, -, -, rfl, -⟩ := h
  · cases hf
  · rfl
  · rfl

/-- Settles O18: the pass is exhausted from the command's own state. -/
theorem exhaustedSearchDoesNothing : Obligations.ExhaustedSearchDoesNothing := by
  intro i s s0 cmd hstart hf
  obtain rfl := hstart.eq_of_ldf hf
  rw [hstart.exec_eq, afterSearch, searchCore_exhausted cmd hf]
  rfl

/-- A pass that gets no presence (R116). -/
theorem searchCore_noPresence (cmd : Byte) {s : State} (hf : s.ldf = false)
    (hp : (onReset s.bus).1 = false) : searchCore cmd s = .value .noPresence
      { clearSession (busReset s).2 with ph := .fin, outcome := some .noPresence } := by
  rw [searchCore_eq, hf, hp]
  rfl

/-- Settles O21: a pass without presence is `searchCore_noPresence`, whatever session it starts from; a bus
held low answers no presence by R98. -/
theorem noPresenceClearsSession : Obligations.NoPresenceClearsSession := by
  refine ⟨fun cmd s hf hp => searchCore_noPresence cmd hf hp, fun s => ⟨_, rfl, rfl⟩, fun s b hb hs => ?_,
    fun i s s0 cmd hstart hf hp => ?_⟩
  · rw [busReset_answer, hb]
    simp [onReset, refReset, hs]
  · have hs0 := hstart.start_eq
    have hp0 : (onReset s0.bus).1 = false := by rw [hs0]; exact hp
    rw [hstart.exec_eq, afterSearch, searchCore_noPresence cmd hf hp0, hs0]
    rfl

/-! ### Completion without a fault (R111, R112, R175) -/

/-- A position below which every replay is written does not raise (R119). -/
theorem discStep_ne_raised {K : Nat} {s : State} (h1 : 1 ≤ K) (hw : WrittenBelow s.romW s.ld.toNat)
    (t : State) : discStep K s ≠ .raised t := by
  intro h
  obtain ⟨-, hk, hun⟩ := discStep_raised K s t h
  rw [hw K h1 hk] at hun
  cases hun

theorem positions_ne_raised {n : Nat} (hn : n ≤ 64) {s : State} (hw : WrittenBelow s.romW s.ld.toNat)
    (t : State) : positions n s ≠ .raised t := by
  induction n generalizing s with
  | zero => simp [positions]
  | succ n ih =>
    by_cases hgo : ∃ u, discStep (64 - n) s = .value .go u
    · obtain ⟨u, hu⟩ := hgo
      obtain ⟨hr, -⟩ | ⟨-, hromW⟩ := discStep_value_cases hu
      · cases hr
      have hld : u.ld = s.ld := by simpa [hu, flowState] using (discStep_positionKeeps (64 - n) s).ld
      have hwu : WrittenBelow u.romW u.ld.toNat := by
        rw [hromW, hld]
        exact writtenBelow_setRomBit_of_writtenBelow (by omega) (by omega) hw
      rw [positions_succ_of_go hu]
      exact ih (by omega) hwu
    · rw [positions_succ_of_stop fun u hu => hgo ⟨u, hu⟩]
      exact discStep_ne_raised (by omega) hw t

theorem concludePass_outcome {s t : State} {o : PassOutcome} (h : concludePass s = .value o t) :
    t.outcome = some o ∧ o ≠ .exhausted := by
  cases hok : s.ok
  · rw [concludePass_aborted s hok] at h
    cases h
    exact ⟨rfl, by decide⟩
  · by_cases hz : s.rom = 0#64
    · rw [concludePass_zero s hok hz] at h
      cases h
      exact ⟨rfl, by decide⟩
    · rw [concludePass_found s hok hz] at h
      cases h
      exact ⟨rfl, by decide⟩

/-- A pass records the outcome it returns, and is exhausted only with LDF = 1 (60_exceptions.md R171). -/
theorem searchCore_outcome {cmd : Byte} {s t : State} {o : PassOutcome} (h : searchCore cmd s = .value o t) :
    t.outcome = some o ∧ (s.ldf = false → o ≠ .exhausted) := by
  rw [searchCore_eq] at h
  split_ifs at h with hf
  · cases h
    exact ⟨rfl, by simp [hf]⟩
  · cases hp : positions 64 (passStart cmd s) with
    | raised u => rw [hp] at h; cases h
    | value r u =>
      rw [hp] at h
      exact (concludePass_outcome h).imp_right fun ho _ => ho
  · cases h
    exact ⟨rfl, by simp⟩

/-- A pass all of whose replays are written returns (R112). -/
theorem searchCore_returns (cmd : Byte) {s : State} (hw : WrittenBelow s.romW s.ld.toNat) :
    ∃ o t, searchCore cmd s = .value o t := by
  rw [searchCore_eq]
  split_ifs
  · exact ⟨_, _, rfl⟩
  · have hpass : WrittenBelow (passStart cmd s).romW (passStart cmd s).ld.toNat := by
      obtain ⟨bus, history, h⟩ := writeBitsFrom_keeps cmd 8 0 (afterPresence s)
      rw [passStart, busWriteByte, h]
      exact hw
    cases hp : positions 64 (passStart cmd s) with
    | raised t => exact absurd hp (positions_ne_raised le_rfl hpass t)
    | value r t =>
      obtain ⟨o, u, hu, -⟩ := concludePass_value t
      exact ⟨o, u, hu⟩
  · exact ⟨_, _, rfl⟩

/-- A pass keeps what it never writes of the command's own state. -/
theorem PassStart.passKeeps {i : Instr} {s s0 : State} {cmd : Byte} (h : PassStart i s s0 cmd) :
    PassKeeps s (flowState (searchCore cmd s0)) := by
  have hs0 : PassKeeps s s0 := by
    rw [h.start_eq]
    constructor <;> rfl
  exact hs0.trans (searchCore_passKeeps cmd s0)

section
variable {i : Instr} {s s0 u : State} {cmd : Byte} {o : PassOutcome}

/-- What a search command leaves when its pass returns. -/
theorem PassStart.exec_of_value (h : PassStart i s s0 cmd) (hc : searchCore cmd s0 = .value o u) :
    exec i s = .next (endSearch (.value o u)) := by
  rw [h.exec_eq, afterSearch, hc]

/-- A search command whose pass returns raises nothing and writes neither CRC nor the shadows. -/
theorem PassStart.frame (h : PassStart i s s0 cmd) (hc : searchCore cmd s0 = .value o u) :
    (endSearch (.value o u)).fault = s.fault ∧ (endSearch (.value o u)).faultInfo = s.faultInfo ∧
      KeepsOutsideSearch s (endSearch (.value o u)) ∧ KeepsShadows s (endSearch (.value o u)) := by
  have hkeep := h.passKeeps
  rw [hc] at hkeep
  obtain ⟨hf, hi⟩ := searchCore_noRaise cmd s0 u o hc
  rw [h.start_eq] at hf hi
  exact ⟨hf, hi, ⟨hkeep.crc, hkeep.inputs, hkeep.answers⟩,
    ⟨hkeep.sRom, hkeep.sRomW, hkeep.sLd, hkeep.sLfd, hkeep.sLdf⟩⟩

/-- RES is 1 exactly when the recorded outcome is a found device. -/
theorem endSearch_res_iff (hc : searchCore cmd s0 = .value o u) :
    (endSearch (.value o u)).result.res = true ↔ (endSearch (.value o u)).outcome = some .found := by
  have ho : (endSearch (.value o u)).outcome = some o := (searchCore_outcome hc).1
  rw [ho, Option.some.injEq]
  exact beq_iff_eq

end

/-- Settles O20: soundness says every replay is written, so the pass returns. -/
theorem nextAndSearchCompleteFromSoundStates : Obligations.NextAndSearchCompleteFromSoundStates := by
  intro i s s0 cmd hstart hs hh
  have hw : WrittenBelow s0.romW s0.ld.toNat := by
    obtain ⟨-, rfl, -⟩ | ⟨-, rfl, -⟩ | ⟨-, -, -, rfl, -⟩ := hstart
    · exact writtenBelow_zero _
    · exact hs.replay hh
    · exact hs.replay hh
  obtain ⟨o, u, hc⟩ := searchCore_returns cmd hw
  obtain ⟨hf, hi, hout, hshadow⟩ := hstart.frame hc
  exact ⟨_, hstart.exec_of_value hc, hf.trans ((isHalted_eq_false s).mp hh), hi, rfl, rfl, rfl,
    endSearch_res_iff hc, hout, hshadow⟩

/-- Settles O19: FIRST has cleared the session, so it replays nothing and is not exhausted. -/
theorem firstCompletesOnEveryBus : Obligations.FirstCompletesOnEveryBus := by
  intro s
  have hstart : PassStart .first s (clearSession s) Config.searchCommand := .inl ⟨rfl, rfl, rfl⟩
  obtain ⟨o, u, hc⟩ := searchCore_returns Config.searchCommand (s := clearSession s) (writtenBelow_zero _)
  obtain ⟨hf, hi, hout, hshadow⟩ := hstart.frame hc
  obtain ⟨events, hev, -⟩ := searchCore_events Config.searchCommand (s := clearSession s) rfl
  obtain ⟨ho, hne⟩ := searchCore_outcome hc
  have hrunning : u.outcome ≠ some .exhausted := by simpa [ho] using hne rfl
  have hcleared : (isFound o) = false → SessionCleared (endSearch (.value o u)) := by
    intro hr
    obtain ⟨hex, -⟩ | ⟨-, hclear⟩ | ⟨rfl, -⟩ := searchCore_value_cases hc
    · exact absurd hex (hne rfl)
    · exact ⟨hclear.ld, hclear.lfd, hclear.ldf⟩
    · cases hr
  rw [hc] at hev
  exact ⟨_, _, events, hstart.exec_of_value hc, hev, hf, hi, rfl, rfl, rfl, endSearch_res_iff hc, hrunning,
    hcleared, hout, hshadow⟩

end Sys2Proof.Machine
end

section
/-!
PROOF. A pass on given answers (spec/41_search.md R118 to R125): after each position the state is the one the
rules give for the readings so far; so a pass that completes, one that aborts, and one that stops at an
unwritten replay.
-/

namespace Sys2Proof.Machine

/-! ### What the rules give, position by position -/

theorem passEvents_zero (cmd : Byte) (s0 : State) (rs : List Reading) :
    passEvents cmd s0 rs 0 = .rst true :: commandEvents cmd := by
  simp [passEvents]

theorem passEvents_succ (cmd : Byte) (s0 : State) (rs : List Reading) (n : Nat) :
    passEvents cmd s0 rs (n + 1) =
      passEvents cmd s0 rs n ++ (readEvents rs (n + 1) ++ [.w (ruleDirection s0 rs (n + 1))]) := by
  simp [passEvents, List.range_succ]

theorem familyZero_zero (s0 : State) (rs : List Reading) : familyZero s0 rs 0 = s0.lfd.toNat := by
  simp [familyZero, highestZero]

/-- LFD follows the 0-branches of positions 1 to 8 alone (R120). -/
theorem familyZero_succ (s0 : State) (rs : List Reading) (n : Nat) : familyZero s0 rs (n + 1) =
    if tookZeroAt s0 rs (n + 1) = true ∧ n + 1 ≤ 8 then n + 1 else familyZero s0 rs n := by
  unfold familyZero
  by_cases h8 : n + 1 ≤ 8
  · have hn : n ≤ 8 := by omega
    rw [Nat.min_eq_left h8, Nat.min_eq_left hn, highestZero]
    by_cases htook : tookZeroAt s0 rs (n + 1) = true
    · simp [htook, h8]
    · simp [htook]
  · have hn : 8 ≤ n := by omega
    rw [Nat.min_eq_right (by omega), Nat.min_eq_right hn]
    simp only [h8, and_false, if_false]

@[simp] theorem withDirection_lz (K : Nat) (d z : Bool) (s : State) :
    (withDirection K d z s).lz = if z && !d then BitVec.ofNat 7 K else s.lz := by
  unfold withDirection
  split <;> rfl

@[simp] theorem withDirection_lfd (K : Nat) (d z : Bool) (s : State) :
    (withDirection K d z s).lfd = if (z && !d) = true ∧ K ≤ 8 then BitVec.ofNat 4 K else s.lfd := by
  unfold withDirection
  by_cases h : (z && !d) = true
  · simp [h]
  · simp [h]

@[simp] theorem writeDirection_lz (K : Nat) (s : State) : (writeDirection K s).lz = s.lz := rfl
@[simp] theorem writeDirection_lfd (K : Nat) (s : State) : (writeDirection K s).lfd = s.lfd := rfl

/-! ### A pass that has gone through some positions -/

/-- What holds as a pass comes to position 1, and is taken on by every position up to `m`, holds as it comes
to position `m + 1`. -/
theorem positions_of_invariant {P : Nat → State → Prop} {m : Nat} {s : State} (hm : m ≤ 64)
    (hstep : ∀ K u, 1 ≤ K → K ≤ m → P K u → ∃ t, discStep K u = .value .go t ∧ P (K + 1) t) (h : P 1 s) :
    ∃ t, positions 64 s = positions (64 - m) t ∧ P (m + 1) t := by
  induction m with
  | zero => exact ⟨s, rfl, h⟩
  | succ m ih =>
    obtain ⟨u, hpos, hu⟩ := ih (by omega) fun K u h1 hK => hstep K u h1 (by omega)
    obtain ⟨t, hgo, ht⟩ := hstep (m + 1) u (by omega) le_rfl hu
    have hlast : 64 - m = 64 - (m + 1) + 1 := by omega
    have hposition : m + 1 = 64 - (64 - (m + 1)) := by omega
    rw [hposition] at hgo
    exact ⟨t, by rw [hpos, hlast, positions_succ_of_go hgo], ht⟩

/-- The pass from `s0` with command byte `cmd`, given the readings `rs`, has gone through positions 1 to
`n`. -/
structure Walked (cmd : Byte) (s0 : State) (rs : List Reading) (n : Nat) (s : State) : Prop where
  written : WritesPrefix s0 rs n s
  lz      : s.lz.toNat = highestZero s0 rs n
  lfd     : s.lfd.toNat = familyZero s0 rs n
  ok      : s.ok = true
  ld      : s.ld = s0.ld
  ldf     : s.ldf = s0.ldf
  history : s.history = s0.history ++ passEvents cmd s0 rs n

theorem walked_passStart (cmd : Byte) {s0 : State} (rs : List Reading) (hp : (onReset s0.bus).1 = true) :
    Walked cmd s0 rs 0 (passStart cmd s0) := by
  have hhistory := passStart_history cmd s0
  rw [hp, ← passEvents_zero cmd s0 rs] at hhistory
  have hkeep := (busWriteByte_positionKeeps cmd (afterPresence s0))
  obtain ⟨bus, history, h⟩ := writeBitsFrom_keeps cmd 8 0 (afterPresence s0)
  refine ⟨fun k h1 _ => ?_, rfl, ?_, rfl, hkeep.ld, hkeep.ldf, hhistory⟩
  · rw [if_neg (by omega), passStart, busWriteByte, h]
    exact ⟨rfl, rfl⟩
  · rw [familyZero_zero, passStart, busWriteByte, h]
    rfl

section
variable {cmd : Byte} {s0 s : State} {rs : List Reading} {n : Nat}

/-- The directions of one more position (R118 steps c to f). -/
theorem WritesPrefix.succ {t : State} (h : WritesPrefix s0 rs n s)
    (hrom : t.rom = setRomBit s.rom (n + 1) (ruleDirection s0 rs (n + 1)))
    (hromW : t.romW = setRomBit s.romW (n + 1) true) (hn : n < 64) : WritesPrefix s0 rs (n + 1) t := by
  intro k h1 h64
  by_cases hk : k = n + 1
  · rw [if_pos hk.le, hk, hrom, hromW, romBit_setRomBit_self _ _ _ (by omega) (by omega),
      romBit_setRomBit_self _ _ _ (by omega) (by omega)]
    exact ⟨rfl, rfl⟩
  · have hbound : k ≤ n + 1 ↔ k ≤ n := by omega
    simp only [hbound, hrom, hromW, romBit_setRomBit_other _ _ _ _ (by omega : 1 ≤ n + 1) h1 hk]
    exact h k h1 h64

/-- What a pass has written is in ROM and ROM_W. -/
theorem WritesPrefix.congr {t : State} (h : WritesPrefix s0 rs n s) (hrom : t.rom = s.rom)
    (hromW : t.romW = s.romW) : WritesPrefix s0 rs n t := by
  intro k h1 h64
  rw [hrom, hromW]
  exact h k h1 h64

/-- The positions still to come hold what they held (R124). -/
theorem Walked.untouched (h : Walked cmd s0 rs n s) {k : Nat} (hk : n < k) (h64 : k ≤ 64) :
    romBit s.rom k = romBit s0.rom k ∧ romBit s.romW k = romBit s0.romW k := by
  have hk0 := h.written k (by omega) h64
  rwa [if_neg (by omega)] at hk0

/-- The history after the two reads of the next position. -/
theorem Walked.afterReads_history (h : Walked cmd s0 rs n s) {K : Nat} (ha : answersAt s = readingAt rs K) :
    (afterReads K s).history = s0.history ++ passEvents cmd s0 rs n ++ readEvents rs K := by
  rw [Machine.afterReads_history, h.history, ha, readEvents, List.append_assoc _ [_] [_]]
  rfl

/-- The state after position `K` is taken as the rules say (R118 steps c to f). -/
def afterRule (s0 : State) (rs : List Reading) (K : Nat) (s : State) : State :=
  writeDirection K (withDirection K (ruleDirection s0 rs K) (discrepancyAt rs K) (afterReads K s))

/-- A position at which somebody answers, with its replay written, takes the rule's direction (R118, R119). -/
theorem Walked.discStep_eq (h : Walked cmd s0 rs n s) (hn : n < 64)
    (ha : answersAt s = readingAt rs (n + 1)) (hsome : nobodyAt rs (n + 1) = false)
    (hread : discrepancyAt rs (n + 1) = true → n + 1 < s0.ld.toNat → romBit s0.romW (n + 1) = true) :
    discStep (n + 1) s = .value .go (afterRule s0 rs (n + 1) s) := by
  obtain ⟨hrom, hromW⟩ := h.untouched (Nat.lt_succ_self n) (by omega)
  rw [nobodyAt, ← ha] at hsome
  obtain ⟨h1, h2, -⟩ | ⟨hne, hd⟩ | ⟨h1, h2, -, hd⟩ | ⟨h1, h2, hk, hun, -⟩ := discStep_cases (n + 1) s
  · simp [h1, h2] at hsome
  · have hagree : ∀ x y : Bool, x ≠ y → (!x && !y) = false := by decide
    have hz : discrepancyAt rs (n + 1) = false := by rw [discrepancyAt, ← ha, hagree _ _ hne]
    rw [hd, afterRule, ruleDirection, hz, ← ha]
    rfl
  · have hz : discrepancyAt rs (n + 1) = true := by simp [discrepancyAt, ← ha, h1, h2]
    rw [hd, afterRule, ruleDirection, hz, h.ld, hrom]
    rfl
  · have hz : discrepancyAt rs (n + 1) = true := by simp [discrepancyAt, ← ha, h1, h2]
    rw [h.ld] at hk
    rw [hromW, hread hz hk] at hun
    cases hun

/-- One more position. -/
theorem Walked.succ (h : Walked cmd s0 rs n s) (hn : n < 64) (ha : answersAt s = readingAt rs (n + 1)) :
    Walked cmd s0 rs (n + 1) (afterRule s0 rs (n + 1) s) := by
  unfold afterRule
  have hkeep := ((afterReads_positionKeeps (n + 1) s).trans
    (withDirection_positionKeeps (n + 1) (ruleDirection s0 rs (n + 1)) (discrepancyAt rs (n + 1)) _)).trans
    (writeDirection_positionKeeps (n + 1) _)
  constructor
  case written => exact h.written.succ (by simp) (by simp) hn
  case lz =>
    have hK : (BitVec.ofNat 7 (n + 1)).toNat = n + 1 := Nat.mod_eq_of_lt (by omega)
    rw [writeDirection_lz, withDirection_lz, afterReads_lz, highestZero, tookZeroAt, ← h.lz]
    split
    · exact hK
    · rfl
  case lfd =>
    rw [writeDirection_lfd, withDirection_lfd, afterReads_lfd, familyZero_succ, tookZeroAt, ← h.lfd]
    split
    · next h8 => exact Nat.mod_eq_of_lt (by omega)
    · rfl
  case ok => simpa using h.ok
  case ld => exact hkeep.ld.trans h.ld
  case ldf => exact hkeep.ldf.trans h.ldf
  case history =>
    rw [passEvents_succ, ← List.append_assoc, ← h.history, readEvents, ← ha]
    simp

end

/-! ### The oracle's script -/

/-- The two answers of a position whose reading the script holds next. -/
theorem answersAt_of_script {s : State} {r : Reading} {rs : List Reading} {rest : List Bool} {asked : Question}
    (h : s.bus = .oracle (scriptOf (r :: rs) ++ rest) asked) :
    answersAt s = r ∧ (onRead (onRead s.bus).2).2 = .oracle (scriptOf rs ++ rest) asked := by
  simp [answersAt, h, scriptOf]

theorem drop_eq_readingAt_cons {rs : List Reading} {n : Nat} (h : n < rs.length) :
    rs.drop n = readingAt rs (n + 1) :: rs.drop (n + 1) := by
  rw [List.drop_eq_getElem_cons h, readingAt, Nat.add_sub_cancel, List.getD_eq_getElem _ _ h]

/-- The oracle takes no notice of what is written (R96): a byte shows in the history alone. -/
theorem writeBitsFrom_oracle (b : Byte) (n i : Nat) {s : State} {script : List Bool} {asked : Question}
    (h : s.bus = .oracle script asked) : ∃ history, writeBitsFrom b n i s = { s with history := history } := by
  induction n generalizing i s with
  | zero => exact ⟨s.history, rfl⟩
  | succ n ih =>
    have hbus : (busWriteBit (b.getLsbD i) s).bus = s.bus := by rw [busWriteBit_bus, h, onWrite_oracle]
    obtain ⟨history, hw⟩ := ih (i + 1) (hbus.trans h)
    refine ⟨history, ?_⟩
    rw [writeBitsFrom, hw]
    exact congrArg (fun bus => { s with bus := bus, history := history }) hbus

theorem passStart_oracle (cmd : Byte) {s : State} {script : List Bool} {asked : Question}
    (h : (afterPresence s).bus = .oracle script asked) :
    ∃ history, passStart cmd s = { afterPresence s with lz := 0#7, ok := true, history := history } := by
  obtain ⟨history, hw⟩ := writeBitsFrom_oracle cmd 8 0 h
  exact ⟨history, by rw [passStart, busWriteByte, hw]⟩

theorem passStart_oracle_bus (cmd : Byte) {s0 : State} {script : List Bool} {asked : Question}
    (hb : s0.bus = .oracle (true :: script) asked) : (passStart cmd s0).bus = .oracle script asked := by
  have hrst : (afterPresence s0).bus = .oracle script asked := by
    rw [afterPresence, busReset_bus, hb, onReset_oracle_cons]
  obtain ⟨history, h⟩ := passStart_oracle cmd hrst
  rw [h]
  exact hrst

section
variable {s0 : State} {rs : List Reading} {rest : List Bool} {asked : Question}

/-- A pass on the script of `rs` goes through its first `m` positions when somebody answers at each and every
replay is written. -/
theorem positions_walked (cmd : Byte) (hb : s0.bus = .oracle (true :: (scriptOf rs ++ rest)) asked) {m : Nat}
    (hm : m ≤ 64) (hlen : m ≤ rs.length) (hsome : SomebodyUpTo rs m) (hread : ReplayReadable s0 rs m) :
    ∃ t, positions 64 (passStart cmd s0) = positions (64 - m) t ∧ Walked cmd s0 rs m t ∧
      t.bus = .oracle (scriptOf (rs.drop m) ++ rest) asked := by
  refine positions_of_invariant
    (P := fun K s => Walked cmd s0 rs (K - 1) s ∧ s.bus = .oracle (scriptOf (rs.drop (K - 1)) ++ rest) asked)
    hm (fun K s h1 hK ⟨hs, hbus⟩ => ?_)
    ⟨walked_passStart cmd rs (by rw [hb]; rfl), passStart_oracle_bus cmd hb⟩
  obtain ⟨n, rfl⟩ : ∃ n, K = n + 1 := ⟨K - 1, by omega⟩
  rw [Nat.add_sub_cancel] at hs hbus
  rw [drop_eq_readingAt_cons (by omega)] at hbus
  obtain ⟨ha, hnext⟩ := answersAt_of_script hbus
  exact ⟨_, hs.discStep_eq (by omega) ha (hsome _ h1 hK) (hread _ h1 hK), hs.succ (by omega) ha,
    by simp [afterRule, hnext]⟩

theorem searchCore_of_presence (cmd : Byte) (hf : s0.ldf = false) (hp : (onReset s0.bus).1 = true) :
    searchCore cmd s0 = concludePositions (positions 64 (passStart cmd s0)) := by
  rw [searchCore_eq, hf, hp]
  rfl

/-- The pass on the script of `rs` comes to position `K` having gone through the positions before it. -/
theorem searchCore_walked (cmd : Byte) (hf : s0.ldf = false)
    (hb : s0.bus = .oracle (true :: (scriptOf rs ++ rest)) asked) {K : Nat} (h1 : 1 ≤ K) (h64 : K ≤ 64)
    (hlen : rs.length = K) (hsome : SomebodyUpTo rs (K - 1)) (hread : ReplayReadable s0 rs (K - 1)) :
    ∃ t, Walked cmd s0 rs (K - 1) t ∧ answersAt t = readingAt rs K ∧
      (afterReads K t).bus = .oracle rest asked ∧
      ((∀ u, discStep K t ≠ .value .go u) → searchCore cmd s0 = concludePositions (discStep K t)) := by
  obtain ⟨n, rfl⟩ : ∃ n, K = n + 1 := ⟨K - 1, by omega⟩
  rw [Nat.add_sub_cancel] at hsome hread ⊢
  obtain ⟨t, hpos, ht, hbus⟩ := positions_walked cmd hb (by omega : n ≤ 64) (by omega) hsome hread
  rw [drop_eq_readingAt_cons (by omega), List.drop_eq_nil_of_le hlen.le] at hbus
  obtain ⟨ha, hnext⟩ := answersAt_of_script hbus
  have hK : 64 - n = 64 - (n + 1) + 1 := by omega
  have hpos1 : 64 - (64 - (n + 1)) = n + 1 := by omega
  refine ⟨t, ht, ha, hnext, fun hstop => ?_⟩
  rw [searchCore_of_presence cmd hf (by rw [hb]; rfl), hpos, hK,
    positions_succ_of_stop (by rw [hpos1]; exact hstop), hpos1]

end

/-! ### The obligations -/

/-- A pass starts on the bus and the history of the command's own state. -/
theorem PassBegins.start_keeps {i : Instr} {s s0 : State} {cmd : Byte} (h : PassBegins i s s0 cmd) :
    s0.bus = s.bus ∧ s0.history = s.history ∧ s0.result = s.result ∧ KeepsOutsideSearch s s0 := by
  obtain h | ⟨-, rfl, -⟩ := h
  · rw [h.start_eq]
    exact ⟨rfl, rfl, rfl, rfl, rfl, rfl⟩
  · exact ⟨rfl, rfl, rfl, rfl, rfl, rfl⟩

/-- Settles O22: after 64 positions the state is the rules' (`Walked`), and the pass concludes from it. -/
theorem completedPassFollowsTheRules : Obligations.CompletedPassFollowsTheRules := by
  intro i s s0 cmd rs rest asked hstart hf hb hlen hsome hread
  obtain ⟨hbus0, hhist0, -, -⟩ := PassBegins.start_keeps (.inl hstart)
  rw [← hbus0] at hb
  obtain ⟨t, hpos, ht, hbus⟩ := positions_walked cmd hb le_rfl hlen.ge hsome hread
  have hcore : searchCore cmd s0 = concludePass t := by
    rw [searchCore_of_presence cmd hf (by rw [hb]; rfl), hpos]
    rfl
  rw [List.drop_eq_nil_of_le hlen.le] at hbus
  have hhist : t.history = s.history ++ passEvents cmd s0 rs 64 := by rw [ht.history, hhist0]
  by_cases hz : t.rom = 0#64
  · have hc := hcore.trans (concludePass_zero t ht.ok hz)
    obtain ⟨hfault, hinfo, hout, hshadow⟩ := hstart.frame hc
    exact ⟨_, hstart.exec_of_value hc, ht.written.congr rfl rfl, hbus, hhist, hfault, hinfo, hout, hshadow,
      fun h => absurd hz h, fun _ => ⟨⟨rfl, rfl, rfl⟩, rfl, rfl⟩⟩
  · have hc := hcore.trans (concludePass_found t ht.ok hz)
    obtain ⟨hfault, hinfo, hout, hshadow⟩ := hstart.frame hc
    have hldf : (completePass t).ldf = (highestZero s0 rs 64 == 0) := by
      rw [completePass_ldf, ht.ldf, hf, ← ht.lz]
      by_cases h0 : t.lz = 0#7
      · simp [h0]
      · have hne : t.lz.toNat ≠ 0 := fun h => h0 (BitVec.eq_of_toNat_eq h)
        simp [h0, hne]
    exact ⟨_, hstart.exec_of_value hc, ht.written.congr rfl rfl, hbus, hhist, hfault, hinfo, hout, hshadow,
      fun _ => ⟨ht.lz, hldf, ht.lfd, rfl, rfl⟩, fun h => absurd h hz⟩

/-- Settles O23: the pass comes to position `K` by `searchCore_walked` and stops there without a write. -/
theorem abortedPassKeepsTheRestOfRom : Obligations.AbortedPassKeepsTheRestOfRom := by
  intro i s s0 cmd rs rest asked K hstart hf hb h1 h64 hlen hsome hnobody hread
  obtain ⟨hbus0, hhist0, -, -⟩ := PassBegins.start_keeps (.inl hstart)
  rw [← hbus0] at hb
  obtain ⟨t, ht, ha, hbus, hcore⟩ := searchCore_walked cmd hf hb h1 h64 hlen hsome hread
  have habort : discStep K t = .value .abort { afterReads K t with ok := false } := by
    rw [discStep_eq, ha, if_pos (by simpa [nobodyAt] using hnobody)]
  rw [habort] at hcore
  have hc := (hcore (by simp)).trans (concludePass_aborted { afterReads K t with ok := false } rfl)
  obtain ⟨hfault, hinfo, hout, hshadow⟩ := hstart.frame hc
  have hhist := ht.afterReads_history ha
  rw [hhist0] at hhist
  exact ⟨_, hstart.exec_of_value hc, ht.written.congr (afterReads_rom K t) (afterReads_romW K t),
    hbus, hhist, hfault, hinfo, ⟨rfl, rfl, rfl⟩, rfl, rfl, hout, hshadow⟩

/-- VERIFY's pass starts in phase VSAVE, which its `RST` leaves behind. -/
theorem searchCore_verifyStart (cmd : Byte) (s : State) :
    searchCore cmd (verifyStart s) = searchCore cmd (anchorSession (saveSession s)) := by
  have hpresence : afterPresence (verifyStart s) = afterPresence (anchorSession (saveSession s)) := rfl
  have hpass : passStart cmd (verifyStart s) = passStart cmd (anchorSession (saveSession s)) := by
    rw [passStart, passStart, hpresence]
  have hldf : (verifyStart s).ldf = false := rfl
  have hbus : (verifyStart s).bus = (anchorSession (saveSession s)).bus := rfl
  rw [searchCore_eq, searchCore_eq, hpass, hpresence, hldf, anchorSession_ldf, hbus]
  simp only [Bool.false_eq_true, if_false]

/-- A pass that raises ends its command where it stands. -/
theorem PassBegins.exec_of_raised {i : Instr} {s s0 t : State} {cmd : Byte} (h : PassBegins i s s0 cmd)
    (hc : searchCore cmd s0 = .raised t) : exec i s = .next t := by
  obtain h | ⟨rfl, rfl, rfl⟩ := h
  · rw [h.exec_eq, afterSearch, hc, endSearch]
  · rw [← searchCore_verifyStart] at hc
    rw [exec, execVerify, ← verifyStart, hc, endVerify]

/-- Settles O24: the pass comes to position `K` by `searchCore_walked`; ROM and ROM_W there are still those of
`s0`, so the replay raises. -/
theorem unwrittenReplayHalts : Obligations.UnwrittenReplayHalts := by
  intro i s s0 cmd rs rest asked K hbegin hf hb h1 h64 hlen hsome hread hdisc hk hun
  obtain ⟨hbus0, hhist0, hres0, hcrc0, hin0, hans0⟩ := hbegin.start_keeps
  rw [← hbus0] at hb
  obtain ⟨t, ht, ha, hbus, hcore⟩ := searchCore_walked cmd hf hb h1 h64 hlen
    (fun k hk1 hkK => hsome k hk1 (by omega)) hread
  obtain ⟨-, hromW⟩ := ht.untouched (by omega : K - 1 < K) h64
  have hraise : discStep K t = .raised (raiseFault .unwrittenRead (.replay K) (afterReads K t)) := by
    obtain ⟨hid, hcmp⟩ : (readingAt rs K).1 = false ∧ (readingAt rs K).2 = false := by
      simpa [discrepancyAt] using hdisc
    simp [discStep_eq, ha, hid, hcmp, ht.ld, hk, hromW, hun]
  rw [hraise] at hcore
  have hc : searchCore cmd s0 = .raised (raiseFault .unwrittenRead (.replay K) (afterReads K t)) :=
    hcore (by simp)
  have hkeep := searchCore_passKeeps cmd s0
  rw [hc] at hkeep
  have hhist := ht.afterReads_history ha
  rw [hhist0] at hhist
  refine ⟨_, hbegin.exec_of_raised hc, rfl, rfl, rfl,
    ht.written.congr (afterReads_rom K t) (afterReads_romW K t), ?ld, ?ldf, ?lfd,
    hkeep.result.trans hres0, hbus, hhist,
    ⟨hkeep.crc.trans hcrc0, hkeep.inputs.trans hin0, hkeep.answers.trans hans0⟩,
    ⟨hkeep.sRom, hkeep.sRomW, hkeep.sLd, hkeep.sLfd, hkeep.sLdf⟩⟩
  case ld => rw [raiseFault_ld, afterReads_ld, ht.ld]
  case ldf => rw [raiseFault_ldf, (afterReads_positionKeeps K t).ldf, ht.ldf, hf]
  case lfd => rw [raiseFault_lfd, afterReads_lfd, ht.lfd]

end Sys2Proof.Machine
end

section
/-!
PROOF. The command byte of SEARCH (spec/41_search.md R113): no part of a pass reads the bus history, and on the
oracle the byte shows there alone.
-/

namespace Sys2Proof.Machine

/-- `s` with another bus history. -/
def withHistory (h : List BusEvent) (s : State) : State := { s with history := h }

/-- The states a procedure ends in, changed by `f`. -/
def mapFlow {α : Type} (f : State → State) : Flow α → Flow α
  | .value a s => .value a (f s)
  | .raised s => .raised (f s)

theorem withDirection_withHistory (K : Nat) (d z : Bool) (h : List BusEvent) (s : State) :
    withDirection K d z (withHistory h s) = withHistory h (withDirection K d z s) := by
  unfold withDirection
  split <;> rfl

theorem discStep_withHistory (K : Nat) (h : List BusEvent) (s : State) :
    ∃ h', discStep K (withHistory h s) = mapFlow (withHistory h') (discStep K s) := by
  have hanswers : answersAt (withHistory h s) = answersAt s := rfl
  have hreads : afterReads K (withHistory h s) =
      withHistory (h ++ [.r (answersAt s).1] ++ [.r (answersAt s).2]) (afterReads K s) := rfl
  have hwrite : ∀ g t, writeDirection K (withHistory g t) =
      withHistory (g ++ [.w t.dir]) (writeDirection K t) := fun _ _ => rfl
  have hld : (withHistory h s).ld = s.ld := rfl
  have hrom : (withHistory h s).rom = s.rom := rfl
  have hromW : (withHistory h s).romW = s.romW := rfl
  rw [discStep_eq, discStep_eq, hanswers, hreads, hld, hrom, hromW]
  simp only [withDirection_withHistory, hwrite]
  split_ifs <;> exact ⟨_, rfl⟩

theorem positions_withHistory (n : Nat) (h : List BusEvent) (s : State) :
    ∃ h', positions n (withHistory h s) = mapFlow (withHistory h') (positions n s) := by
  induction n generalizing h s with
  | zero => exact ⟨h, rfl⟩
  | succ n ih =>
    obtain ⟨h', hd⟩ := discStep_withHistory (64 - n) h s
    rw [positions, positions, hd]
    cases discStep (64 - n) s with
    | raised t => exact ⟨h', rfl⟩
    | value r t =>
      cases r with
      | abort => exact ⟨h', rfl⟩
      | go => exact ih h' t

theorem concludePass_withHistory (h : List BusEvent) (s : State) :
    concludePass (withHistory h s) = mapFlow (withHistory h) (concludePass s) := by
  cases hok : s.ok
  · rw [concludePass_aborted s hok, concludePass_aborted (withHistory h s) hok]
    rfl
  · by_cases hz : s.rom = 0#64
    · rw [concludePass_zero s hok hz, concludePass_zero (withHistory h s) hok hz]
      rfl
    · rw [concludePass_found s hok hz, concludePass_found (withHistory h s) hok hz]
      rfl

theorem concludePositions_mapFlow (h : List BusEvent) (x : Flow Resolution) :
    concludePositions (mapFlow (withHistory h) x) = mapFlow (withHistory h) (concludePositions x) := by
  cases x with
  | raised t => rfl
  | value r t => exact concludePass_withHistory h t

theorem afterPresence_oracle {s : State} {script : List Bool} {asked : Question}
    (h : s.bus = .oracle script asked) :
    ∃ script' asked', (afterPresence s).bus = .oracle script' asked' := by
  rw [afterPresence, busReset_bus, h]
  cases script with
  | nil => exact ⟨_, _, rfl⟩
  | cons a rest => exact ⟨_, _, rfl⟩

/-- On the oracle two passes that send different bytes differ in the history alone. -/
theorem searchCore_oracle (c d : Byte) {s : State} {script : List Bool} {asked : Question}
    (h : s.bus = .oracle script asked) :
    ∃ h', searchCore d s = mapFlow (withHistory h') (searchCore c s) := by
  rw [searchCore_eq, searchCore_eq]
  split_ifs
  · exact ⟨s.history, rfl⟩
  · obtain ⟨script', asked', hbus⟩ := afterPresence_oracle h
    obtain ⟨hc, hpassc⟩ := passStart_oracle c hbus
    obtain ⟨hd, hpassd⟩ := passStart_oracle d hbus
    have hpass : passStart d s = withHistory hd (passStart c s) := by
      rw [hpassc, hpassd]
      rfl
    obtain ⟨h', hp⟩ := positions_withHistory 64 hd (passStart c s)
    exact ⟨h', by rw [hpass, hp, concludePositions_mapFlow]⟩
  · exact ⟨(afterPresence s).history, rfl⟩

theorem endSearch_mapFlow (h : List BusEvent) (x : Flow PassOutcome) :
    endSearch (mapFlow (withHistory h) x) = withHistory h (endSearch x) := by
  cases x <;> rfl

/-- Settles O25: the two passes differ in the history alone, and so do the reports. -/
theorem searchByteChangesNothingInTheBlock : Obligations.SearchByteChangesNothingInTheBlock := by
  intro s script asked c d hb hc hd
  have hstart : ∀ n, n < 256 → PassStart (.search n) s s (BitVec.ofNat 8 n) :=
    fun n hn => .inr (.inr ⟨n, rfl, hn, rfl, rfl⟩)
  obtain ⟨h', hcore⟩ := searchCore_oracle (BitVec.ofNat 8 c) (BitVec.ofNat 8 d) hb
  have hx : exec (.search d) s = .next (withHistory h' (afterSearch (BitVec.ofNat 8 c) s)) := by
    rw [(hstart d hd).exec_eq, afterSearch, hcore, endSearch_mapFlow, afterSearch]
  refine ⟨_, (hstart c hc).exec_eq, ?_⟩
  rw [afterExec_of_next hx, hx]
  rfl

end Sys2Proof.Machine
end

section
/-!
PROOF. The micro-step view (spec/41_search.md R126): each phase issues at most one bus event, and stepping
through the phases of a command gives what the command gives.
-/

namespace Sys2Proof.Machine

/-! ### One phase -/

/-- CHOOSE answers a direction and keeps the state, or raises UnwrittenRead (R119). -/
theorem chooseDirection_cases (K : Nat) (s : State) : (∃ d, chooseDirection K s = .value d s) ∨
    chooseDirection K s = .raised (raiseFault .unwrittenRead (.replay K) s) := by
  unfold chooseDirection
  split_ifs
  · exact .inl ⟨_, rfl⟩
  · exact .inr rfl
  · exact .inl ⟨_, rfl⟩

/-- Steps b to d of DISC_STEP issue no event (R118). -/
theorem resolve_history (K : Nat) (s : State) : (flowState (resolve K s)).history = s.history := by
  unfold resolve
  split_ifs
  · rfl
  · rfl
  · obtain ⟨d, h⟩ | h := chooseDirection_cases K s
    · rw [h]
      cases d <;> rfl
    · rw [h]
      rfl

theorem rcmpPhase_history (K : Nat) (s : State) : (rcmpPhase K s).history = (readCmp K s).history := by
  rw [← resolve_history K (readCmp K s), rcmpPhase]
  cases resolve K (readCmp K s) with
  | raised t => rfl
  | value r t => cases r <;> rfl

theorem startPass_history (s : State) : (startPass s).history = s.history := by
  unfold startPass
  split <;> rfl

theorem idlePhase_history (i : Instr) (s : State) : (idlePhase i s).history = s.history := by
  cases i with
  | first | next | search => exact startPass_history _
  | resetSearch | targetSetup | familySkipSetup | verify | crcClear | crcUpdate => rfl

theorem rstPhase_history (s : State) : (rstPhase s).history = s.history ++ [.rst (onReset s.bus).1] := by
  unfold rstPhase
  split <;> rfl

theorem cmdPhase_history (i : Instr) (n : Nat) (s : State) :
    (cmdPhase i n s).history = s.history ++ [.w ((commandByte i).getLsbD n)] := by
  unfold cmdPhase
  split <;> rfl

theorem finPass_history (s : State) : (flowState (finPass s)).history = s.history := by
  unfold finPass
  split
  · rfl
  · exact flowState_concludePositions_history (.value .go s)

theorem finVerify_history (x : Flow PassOutcome) : (finVerify x).history = (flowState x).history := by
  cases x with
  | raised t => rfl
  | value o t =>
    obtain ⟨same, h, -⟩ | ⟨-, -, h⟩ := compareSaved_cases (isFound o) t <;> rw [finVerify, h] <;> rfl

theorem finPhase_history (i : Instr) (s : State) : (finPhase i s).history = s.history := by
  cases i with
  | verify => exact (finVerify_history _).trans (finPass_history s)
  | first | next | search => exact (endSearch_history _).trans (finPass_history s)
  | resetSearch | targetSetup | familySkipSetup | crcClear | crcUpdate => rfl

/-- Settles O29, phase by phase: RST, CMD, RID, RCMP and WDIR drive the bus once, the others never. -/
theorem eachPhaseIssuesAtMostOneEvent : Obligations.EachPhaseIssuesAtMostOneEvent := by
  intro i s
  have quiet : ∀ t : State, t.history = s.history →
      ∃ events, t.history = s.history ++ events ∧ events.length ≤ 1 :=
    fun t h => ⟨[], by rw [h, List.append_nil], Nat.zero_le 1⟩
  have one : ∀ (t : State) (e : BusEvent), t.history = s.history ++ [e] →
      ∃ events, t.history = s.history ++ events ∧ events.length ≤ 1 := fun t e h => ⟨[e], h, le_rfl⟩
  unfold microStep
  split
  · exact quiet s rfl
  · cases s.ph with
    | idle => exact quiet _ (idlePhase_history i s)
    | vsave => exact quiet _ (startPass_history _)
    | rst => exact one _ _ (rstPhase_history s)
    | cmd n => exact one _ _ (cmdPhase_history i n s)
    | rid K => exact one _ _ rfl
    | rcmp K => exact one _ _ (rcmpPhase_history K s)
    | wdir K => exact one _ _ rfl
    | fin => exact quiet _ (finPhase_history i s)
    | vrestore => exact quiet _ rfl

/-! ### Runs of micro-steps -/

/-- `k` micro-steps of command `i` are enough to end in `u`. -/
def Ends (i : Instr) (k : Nat) (s u : State) : Prop := ∀ n, microRun i (n + k) s = u

section
variable {i : Instr} {k : Nat} {s t u : State}

theorem Ends.mono {l : Nat} (h : Ends i k s u) (hkl : k ≤ l) : Ends i l s u := by
  obtain ⟨d, rfl⟩ := Nat.exists_eq_add_of_le' hkl
  intro n
  rw [← Nat.add_assoc]
  exact h (n + d)

/-- A micro-step inside the command. -/
theorem Ends.step (hs : microStep i s = t) (hph : t.ph ≠ .idle) (hf : t.fault = .none) (h : Ends i k t u) :
    Ends i (k + 1) s u := by
  intro n
  have hgo : ¬(t.ph = .idle ∨ isHalted t = true) := by simp [hph, hf]
  rw [← Nat.add_assoc, microRun, hs, if_neg hgo, h n]

/-- The command's last micro-step, back in IDLE or halted. -/
theorem ends_of_stop (hs : microStep i s = t) (hstop : t.ph = .idle ∨ isHalted t = true) : Ends i 1 s t := by
  intro n
  rw [microRun, hs, if_pos hstop]

end

/-! A running block's micro-step, phase by phase (R126). -/

section
variable {i : Instr} {s : State} {n K : Nat} (hf : s.fault = .none)
include hf

theorem microStep_idle (hp : s.ph = .idle) : microStep i s = idlePhase i s := by
  simp [microStep, hf, hp]

theorem microStep_vsave (hp : s.ph = .vsave) : microStep i s = startPass (anchorSession (saveSession s)) := by
  simp [microStep, hf, hp]

theorem microStep_rst (hp : s.ph = .rst) : microStep i s = rstPhase s := by
  simp [microStep, hf, hp]

theorem microStep_cmd (hp : s.ph = .cmd n) : microStep i s = cmdPhase i n s := by
  simp [microStep, hf, hp]

theorem microStep_rid (hp : s.ph = .rid K) : microStep i s = { readId K s with ph := .rcmp K } := by
  simp [microStep, hf, hp]

theorem microStep_rcmp (hp : s.ph = .rcmp K) : microStep i s = rcmpPhase K s := by
  simp [microStep, hf, hp]

theorem microStep_wdir (hp : s.ph = .wdir K) : microStep i s = wdirPhase K s := by
  simp [microStep, hf, hp]

theorem microStep_fin (hp : s.ph = .fin) : microStep i s = finPhase i s := by
  simp [microStep, hf, hp]

theorem microStep_vrestore (hp : s.ph = .vrestore) : microStep i s = { restoreSession s with ph := .idle } := by
  simp [microStep, hf, hp]

end

/-! ### The positions -/

/-- `s` as the pass comes to position `K`, or to FIN after position 64. -/
def atPosition (K : Nat) (s : State) : State := { s with ph := if K ≤ 64 then .rid K else .fin }

section
variable {i : Instr} {k : Nat} {s u : State}

/-- RID, RCMP and WDIR of one position are DISC_STEP (R118). -/
theorem position_ends {K : Nat} (h64 : K ≤ 64) (hf : s.fault = .none)
    (hgo : ∀ t, discStep K s = .value .go t → Ends i k (atPosition (K + 1) t) u)
    (habort : ∀ t, discStep K s = .value .abort t → Ends i k { t with ph := .fin } u)
    (hraise : ∀ t, discStep K s = .raised t → t = u) : Ends i (k + 3) (atPosition K s) u := by
  have hrid : microStep i (atPosition K s) = { readId K s with ph := .rcmp K } :=
    microStep_rid (s := atPosition K s) hf (if_pos h64)
  have hrcmp : microStep i { readId K s with ph := .rcmp K } = rcmpPhase K (readId K s) :=
    microStep_rcmp (s := { readId K s with ph := .rcmp K }) hf rfl
  have hd : discStep K s = match resolve K (readCmp K (readId K s)) with
    | .raised t => .raised t
    | .value .abort t => .value .abort t
    | .value .go t => .value .go (writeDirection K t) := rfl
  rw [rcmpPhase] at hrcmp
  refine .step hrid nofun hf ?_
  cases hr : resolve K (readCmp K (readId K s)) with
  | raised t =>
    rw [hr] at hd hrcmp
    obtain rfl := hraise t hd
    obtain ⟨rfl, -, -⟩ := discStep_raised K s t hd
    exact (ends_of_stop hrcmp (.inr rfl)).mono (by omega)
  | value r t =>
    rw [hr] at hd hrcmp
    cases r with
    | abort =>
      have hft : t.fault = .none := (discStep_noRaise _ _ _ _ hd).fault.trans hf
      exact (Ends.step hrcmp nofun hft (habort t hd)).mono (by omega)
    | go =>
      have hft : t.fault = .none := (discStep_noRaise _ _ _ _ hd).fault.trans hf
      have hwdir : microStep i { t with ph := .wdir K } = atPosition (K + 1) (writeDirection K t) :=
        microStep_wdir (s := { t with ph := .wdir K }) hft rfl
      refine .step hrcmp nofun hft (.step hwdir ?_ hft (hgo _ hd))
      unfold atPosition
      split <;> nofun

theorem positions_ends {n : Nat} (hn : n ≤ 64) (hf : s.fault = .none)
    (hvalue : ∀ r t, positions n s = .value r t → Ends i k { t with ph := .fin } u)
    (hraise : ∀ t, positions n s = .raised t → t = u) : Ends i (k + 3 * n) (atPosition (65 - n) s) u := by
  induction n generalizing s with
  | zero => exact hvalue _ s rfl
  | succ n ih =>
    have hK : 65 - (n + 1) = 64 - n := by omega
    have hnext : 64 - n + 1 = 65 - n := by omega
    rw [hK]
    refine position_ends (k := k + 3 * n) (by omega) hf (fun t hd => ?_) (fun t hd => ?_) fun t hd => ?_
    · rw [hnext]
      rw [positions_succ_of_go hd] at hvalue hraise
      exact ih (by omega) ((discStep_noRaise _ _ _ _ hd).fault.trans hf) hvalue hraise
    · exact (hvalue .abort t (by rw [positions, hd])).mono (by omega)
    · exact hraise t (by rw [positions, hd])

/-! ### The pass -/

/-- CMD`j` to CMD7 send the rest of the command byte (R117). -/
theorem cmd_ends {n j : Nat} (hj : n + j = 7) (hf : s.fault = .none)
    (h : Ends i k { writeBitsFrom (commandByte i) (n + 1) j s with lz := 0#7, ok := true, ph := .rid 1 } u) :
    Ends i (k + (n + 1)) { s with ph := .cmd j } u := by
  have hcmd : microStep i { s with ph := .cmd j } = cmdPhase i j { s with ph := .cmd j } :=
    microStep_cmd (s := { s with ph := .cmd j }) hf rfl
  rw [cmdPhase] at hcmd
  induction n generalizing j s with
  | zero =>
    rw [if_neg (by omega)] at hcmd
    exact .step hcmd nofun hf h
  | succ n ih =>
    rw [if_pos (by omega)] at hcmd
    refine .step hcmd nofun hf ?_
    exact ih (s := busWriteBit ((commandByte i).getLsbD j) s) (by omega) hf h
      (microStep_cmd (s := { busWriteBit _ s with ph := .cmd (j + 1) }) hf rfl)

theorem concludePass_ph (p : Phase) (s : State) : concludePass { s with ph := p } = concludePass s := by
  rcases (Bool.eq_false_or_eq_true s.ok).symm with hok | hok
  · rw [concludePass_aborted s hok, concludePass_aborted { s with ph := p } hok]
    rfl
  · by_cases hz : s.rom = 0#64
    · rw [concludePass_zero s hok hz, concludePass_zero { s with ph := p } hok hz]
      rfl
    · rw [concludePass_found s hok hz, concludePass_found { s with ph := p } hok hz]
      rfl

theorem finPass_of_none {f : State} (h : f.outcome = none) : finPass f = concludePass f := by
  rw [finPass, h]

/-- The positions of a pass leave the outcome at none, which its `RST` set (log entry 7). -/
theorem positions_passStart_outcome {cmd : Byte} {t : State} {r : Resolution}
    (h : positions 64 (passStart cmd s) = .value r t) : t.outcome = none := by
  have hkeep := positions_positionKeeps 64 (passStart cmd s)
  rw [h] at hkeep
  exact hkeep.outcome.trans (busWriteByte_positionKeeps cmd (afterPresence s)).outcome

/-- After presence the phases send the command byte and go through the positions, to FIN or to a raise. -/
theorem presence_ends (hf : s.fault = .none)
    (hvalue : ∀ r t, positions 64 (passStart (commandByte i) s) = .value r t →
      Ends i k { t with ph := .fin } u)
    (hraise : ∀ t, positions 64 (passStart (commandByte i) s) = .raised t → t = u) :
    Ends i (k + 200) { afterPresence s with ph := .cmd 0 } u := by
  have hpass : (passStart (commandByte i) s).fault = .none := (passStart_noRaise _ s).fault.trans hf
  exact cmd_ends (n := 7) (j := 0) rfl hf
    (positions_ends (s := passStart (commandByte i) s) le_rfl hpass hvalue hraise)

/-- From the start of a pass the phases come to FIN with the pass's end still to be concluded there, or to the
raise of a replay (R126, R114). -/
theorem pass_ends (hf : s.fault = .none)
    (hfin : ∀ f : State, f.fault = .none → f.ph = .fin → finPass f = searchCore (commandByte i) s →
      Ends i k f u)
    (hraise : ∀ t, searchCore (commandByte i) s = .raised t → t = u) :
    Ends i (k + 201) (startPass s) u := by
  rw [searchCore_eq] at hfin hraise
  unfold startPass
  split
  · next hldf =>
    rw [if_pos hldf] at hfin
    exact (hfin { s with outcome := some .exhausted, ph := .fin } hf rfl rfl).mono (by omega)
  next hldf =>
  rw [if_neg hldf] at hfin hraise
  have hrst : microStep i { s with outcome := none, ph := .rst } = if (onReset s.bus).1
      then { afterPresence s with ph := .cmd 0 }
      else { clearSession (afterPresence s) with outcome := some .noPresence, ph := .fin } :=
    microStep_rst (s := { s with outcome := none, ph := .rst }) hf rfl
  cases hp : (onReset s.bus).1 with
  | false =>
    rw [hp, if_neg Bool.false_ne_true] at hfin hrst
    exact (Ends.step hrst nofun hf (hfin _ hf rfl rfl)).mono (by omega)
  | true =>
    rw [hp, if_pos rfl] at hfin hraise hrst
    refine .step hrst nofun hf (presence_ends hf (fun r t ht => ?_) fun t ht => hraise t (by rw [ht]; rfl))
    have hft : t.fault = .none :=
      ((passStart_noRaise _ s).trans (positions_noRaise _ _ _ _ ht)).fault.trans hf
    have hout : t.outcome = none := positions_passStart_outcome ht
    refine hfin _ hft rfl ?_
    rw [ht, finPass_of_none (f := { t with ph := .fin }) hout]
    exact concludePass_ph .fin t

end

/-! ### The commands -/

theorem startPass_running (s : State) : (startPass s).ph ≠ .idle ∧ (startPass s).fault = s.fault := by
  unfold startPass
  split <;> exact ⟨nofun, rfl⟩

/-- A search command ends in IDLE, or halted. -/
theorem afterSearch_stops (cmd : Byte) (s : State) :
    (afterSearch cmd s).ph = .idle ∨ isHalted (afterSearch cmd s) = true := by
  obtain ⟨t, -, ht, hf, -⟩ | ⟨o, t, -, ht⟩ := afterSearch_cases cmd s <;> rw [ht]
  · exact .inr (by simp [hf])
  · exact .inl rfl

/-- A search command's phases, from the start of its pass. -/
theorem search_ends {i : Instr} {s : State} (hf : s.fault = .none)
    (hi : ∀ f, finPhase i f = endSearch (finPass f)) :
    Ends i 202 (startPass s) (afterSearch (commandByte i) s) := by
  refine pass_ends (k := 1) hf (fun f hff hph hfin => ?_) fun t ht => by rw [afterSearch, ht, endSearch]
  refine ends_of_stop ?_ (afterSearch_stops _ s)
  rw [microStep_fin hff hph, afterSearch, ← hfin]
  exact hi f

/-- FIN and VRESTORE end VERIFY as `endVerify` does (log entry 6). -/
theorem verify_fin_ends {s f : State} (hf : s.fault = .none) (hff : f.fault = .none) (hph : f.ph = .fin)
    (hfin : finPass f = searchCore Config.searchCommand (verifyStart s)) :
    Ends .verify 2 f (afterVerify s) := by
  have hstep : microStep .verify f = finVerify (searchCore Config.searchCommand (verifyStart s)) := by
    rw [microStep_fin hff hph, finPhase, hfin]
  rw [afterVerify]
  cases hc : searchCore Config.searchCommand (verifyStart s) with
  | raised t =>
    rw [hc, finVerify] at hstep
    obtain ⟨hft, -⟩ := searchCore_raised _ _ t hc
    exact (ends_of_stop hstep (.inr (by simp [hft]))).mono (by omega)
  | value o t =>
    have hft : t.fault = .none := (searchCore_noRaise _ _ t o hc).fault.trans hf
    rw [hc, finVerify] at hstep
    obtain ⟨same, h, -⟩ | ⟨-, -, h⟩ := compareSaved_cases (isFound o) t
    · rw [h] at hstep
      rw [endVerify_of_value h]
      exact .step hstep nofun hft (ends_of_stop (microStep_vrestore hft rfl) (.inl rfl))
    · rw [h] at hstep
      rw [endVerify_of_raised h]
      exact (ends_of_stop hstep (.inr rfl)).mono (by omega)

theorem verify_ends {s : State} (hf : s.fault = .none) :
    Ends .verify 203 (startPass (verifyStart s)) (afterVerify s) :=
  pass_ends (i := .verify) (k := 2) hf (fun _ => verify_fin_ends hf) fun t ht => by
    have hc : searchCore Config.searchCommand (verifyStart s) = .raised t := ht
    rw [afterVerify, hc, endVerify]

/-- Stepping through the phases of a command ends in its effect. -/
theorem effect_ends (i : Instr) {s : State} (hph : s.ph = .idle) (hf : s.fault = .none) :
    Ends i 205 s (effect i s) := by
  have hidle : microStep i s = idlePhase i s := microStep_idle hf hph
  cases i with
  | first =>
    obtain ⟨hp, hf'⟩ := startPass_running (clearSession s)
    exact (Ends.step hidle hp (hf'.trans hf) (search_ends hf fun _ => rfl)).mono (by decide)
  | next | search =>
    obtain ⟨hp, hf'⟩ := startPass_running s
    exact (Ends.step hidle hp (hf'.trans hf) (search_ends hf fun _ => rfl)).mono (by decide)
  | verify =>
    have hvsave : microStep .verify { s with ph := .vsave } = startPass (verifyStart s) :=
      microStep_vsave (s := { s with ph := .vsave }) hf rfl
    obtain ⟨hp, hf'⟩ := startPass_running (verifyStart s)
    exact .step hidle nofun hf (.step hvsave hp (hf'.trans hf) (verify_ends hf))
  | resetSearch | targetSetup | familySkipSetup | crcClear | crcUpdate =>
    exact (ends_of_stop hidle (.inl hph)).mono (by decide)

/-- Settles O28: the 205 micro-steps of `maxMicroSteps` are enough for every command. -/
theorem microStepsAgreeWithCommand : Obligations.MicroStepsAgreeWithCommand := by
  intro i s hwf hph hh
  have hends := effect_ends i hph ((isHalted_eq_false s).mp hh) 0
  exact (exec_next_iff i s _).mpr ⟨hwf, hends⟩

end Sys2Proof.Machine
end

section
/-!
PROOF. The order in which passes find the devices of the reference bus (spec/41_search.md R119 to R123,
00_scope.md R8): each pass finds the device that follows the last one in the traversal key.
-/

namespace Sys2Proof.Machine

/-! ### The first position at which two codes differ (R8) -/

theorem agreesBelow_comm {a d : Rom} {k : Nat} (h : agreesBelow a k d = true) : agreesBelow d k a = true :=
  (agreesBelow_iff d k a).mpr fun j hj h1 => ((agreesBelow_iff a k d).mp h j hj h1).symm

theorem agreesBelow_self (a : Rom) (k : Nat) : agreesBelow a k a = true :=
  (agreesBelow_iff a k a).mpr fun _ _ _ => rfl

theorem agreesBelow_trans {a c d : Rom} {k : Nat} (h : agreesBelow a k c = true)
    (g : agreesBelow c k d = true) : agreesBelow a k d = true :=
  (agreesBelow_iff a k d).mpr fun j hj h1 =>
    ((agreesBelow_iff c k d).mp g j hj h1).trans ((agreesBelow_iff a k c).mp h j hj h1)

theorem exists_first_difference {a d : Rom} (h : a ≠ d) :
    ∃ k, 1 ≤ k ∧ k ≤ 64 ∧ agreesBelow a k d = true ∧ romBit d k ≠ romBit a k := by
  have hex : ∃ k, 1 ≤ k ∧ k ≤ 64 ∧ romBit d k ≠ romBit a k := by
    by_contra hno
    push Not at hno
    exact h (rom_ext a d fun k h1 h64 => (hno k h1 h64).symm)
  obtain ⟨h1, h64, hne⟩ := Nat.find_spec hex
  refine ⟨Nat.find hex, h1, h64, (agreesBelow_iff _ _ _).mpr fun j hj hj1 => ?_, hne⟩
  by_contra hdiff
  exact Nat.find_min hex hj ⟨hj1, by omega, hdiff⟩

theorem traversalKey_lt {a d : Rom} {k : Nat} (h1 : 1 ≤ k) (h64 : k ≤ 64) (h : agreesBelow a k d = true)
    (ha : romBit a k = false) (hd : romBit d k = true) : traversalKey a < traversalKey d :=
  traversalKey_lt_of_first_difference a d k h1 h64
    (fun j hj1 hj => ((agreesBelow_iff a k d).mp h j hj hj1).symm) ha hd

/-- The traversal key orders codes by the first position at which they differ. -/
theorem exists_of_traversalKey_lt {a d : Rom} (h : traversalKey a < traversalKey d) :
    ∃ k, 1 ≤ k ∧ k ≤ 64 ∧ agreesBelow a k d = true ∧ romBit a k = false ∧ romBit d k = true := by
  have hne : a ≠ d := fun heq => absurd (heq ▸ h) (lt_irrefl _)
  obtain ⟨k, h1, h64, hag, hdiff⟩ := exists_first_difference hne
  cases ha : romBit a k with
  | false => exact ⟨k, h1, h64, hag, ha, by simpa [ha] using hdiff⟩
  | true =>
    have hd : romBit d k = false := by simpa [ha] using hdiff
    exact absurd (traversalKey_lt h1 h64 (agreesBelow_comm hag) hd ha) (by omega)

theorem traversalKey_injective {a d : Rom} (h : traversalKey a = traversalKey d) : a = d := by
  by_contra hne
  obtain ⟨k, h1, h64, hag, hdiff⟩ := exists_first_difference hne
  cases ha : romBit a k with
  | false => exact absurd (traversalKey_lt h1 h64 hag ha (by simpa [ha] using hdiff)) (by omega)
  | true =>
    exact absurd (traversalKey_lt h1 h64 (agreesBelow_comm hag) (by simpa [ha] using hdiff) ha) (by omega)

/-! ### Discrepancies of a set of codes -/

/-- Among the codes of `D` that agree with `a` below `k` both values occur at `k`: a pass that has written `a`
reads a discrepancy there (R99, R118). -/
def Splits (D : List Rom) (a : Rom) (k : Nat) : Prop :=
  ∀ v, ∃ d ∈ D, agreesBelow a k d = true ∧ romBit d k = v

theorem splits_of_ne {D : List Rom} {a d e : Rom} {k : Nat} (hd : d ∈ D) (he : e ∈ D)
    (hda : agreesBelow a k d = true) (hea : agreesBelow a k e = true) (hne : romBit d k ≠ romBit e k) :
    Splits D a k := by
  intro v
  by_cases hv : romBit d k = v
  · exact ⟨d, hd, hda, hv⟩
  · exact ⟨e, he, hea, (Bool.eq_not.mpr hne.symm).trans (Bool.eq_not.mpr (Ne.symm hv)).symm⟩

/-- `z` is the highest position below `K` at which `a` has 0 at a discrepancy, 0 if there is none (R120). -/
structure LastZero (D : List Rom) (a : Rom) (K z : Nat) : Prop where
  above : ∀ k, z < k → k < K → Splits D a k → romBit a k = true
  here  : z ≠ 0 → z < K ∧ Splits D a z ∧ romBit a z = false

/-- At every discrepancy below `K` the code `a` has the direction R119 gives from the session of `s0`. -/
def FollowsRule (D : List Rom) (s0 : State) (K : Nat) (a : Rom) : Prop :=
  ∀ k, 1 ≤ k → k < K → Splits D a k →
    romBit a k = if k < s0.ld.toNat then romBit s0.rom k else k == s0.ld.toNat

theorem agreesBelow_setRomBit_of_le (a d : Rom) {K k : Nat} (v : Bool) (h1 : 1 ≤ K) (hk : k ≤ K) :
    agreesBelow (setRomBit a K v) k d = agreesBelow a k d := by
  have hbit : ∀ j, j < k → 1 ≤ j → romBit (setRomBit a K v) j = romBit a j :=
    fun j hj hj1 => romBit_setRomBit_other a K j v h1 hj1 (by omega)
  rw [Bool.eq_iff_iff, agreesBelow_iff, agreesBelow_iff]
  exact forall_congr' fun j => forall_congr' fun hj => forall_congr' fun hj1 => by rw [hbit j hj hj1]

/-- What is written at `K` does not touch the discrepancies up to `K`. -/
theorem splits_setRomBit (D : List Rom) (a : Rom) {K k : Nat} (v : Bool) (h1 : 1 ≤ K) (hk : k ≤ K) :
    Splits D (setRomBit a K v) k ↔ Splits D a k := by
  simp only [Splits, agreesBelow_setRomBit_of_le a _ v h1 hk]

section
variable {D : List Rom} {a : Rom} {K z : Nat}

theorem lastZero_setRomBit_false (h1 : 1 ≤ K) (h64 : K ≤ 64) (h : Splits D a K) :
    LastZero D (setRomBit a K false) (K + 1) K where
  above := fun k hlt hle => absurd hlt (by omega)
  here := fun _ => ⟨Nat.lt_succ_self K, (splits_setRomBit D a false h1 le_rfl).mpr h,
    romBit_setRomBit_self a K false h1 h64⟩

theorem LastZero.setRomBit {v : Bool} (h : LastZero D a K z) (h1 : 1 ≤ K) (h64 : K ≤ 64)
    (hv : Splits D a K → v = true) : LastZero D (setRomBit a K v) (K + 1) z where
  above := fun k hzk hk hsplit => by
    rw [splits_setRomBit D a v h1 (by omega)] at hsplit
    by_cases hkK : k = K
    · subst hkK
      rw [romBit_setRomBit_self a k v h1 h64, hv hsplit]
    · rw [romBit_setRomBit_other a K k v h1 (by omega) hkK, h.above k hzk (by omega) hsplit]
  here := fun hz => by
    obtain ⟨hzK, hsplit, hbit⟩ := h.here hz
    rw [splits_setRomBit D a v h1 hzK.le, romBit_setRomBit_other a K z v h1 (by omega) hzK.ne]
    exact ⟨by omega, hsplit, hbit⟩

theorem FollowsRule.setRomBit {s0 : State} (h : FollowsRule D s0 K a) (h1 : 1 ≤ K) (h64 : K ≤ 64) {v : Bool}
    (hv : Splits D a K → v = if K < s0.ld.toNat then romBit s0.rom K else K == s0.ld.toNat) :
    FollowsRule D s0 (K + 1) (setRomBit a K v) := by
  intro k hk1 hk hsplit
  rw [splits_setRomBit D a v h1 (by omega)] at hsplit
  by_cases hkK : k = K
  · subst hkK
    rw [romBit_setRomBit_self a k v h1 h64]
    exact hv hsplit
  · rw [romBit_setRomBit_other a K k v h1 hk1 hkK]
    exact h k hk1 (by omega) hsplit

end

/-! ### A pass on the reference bus -/

/-- The devices that take part in a pass (R97). -/
def participants (cmd : Byte) (b : RefBus) : List Rom := b.devices.filter (Config.participates cmd)

/-- `Racing`, with the directions taken so far: the rule's from the session of `s0`, and LZ the last 0. -/
structure Ruled (cmd : Byte) (b : RefBus) (s0 : State) (K : Nat) (s : State) : Prop
    extends Racing cmd b K s where
  ld   : s.ld = s0.ld
  kept : ∀ k, K ≤ k → k ≤ 64 → romBit s.rom k = romBit s0.rom k
  rule : FollowsRule (participants cmd b) s0 K s.rom
  last : LastZero (participants cmd b) s.rom K s.lz.toNat

section
variable {cmd : Byte} {b : RefBus} {s0 s : State} {K : Nat}

/-- The two answers are 0, 0 exactly at a discrepancy of the participants (R99). -/
theorem Racing.splits_iff (h : Racing cmd b K s) (hs : b.stuck = false) :
    Splits (participants cmd b) s.rom K ↔ (answersAt s).1 = false ∧ (answersAt s).2 = false := by
  have hmem : ∀ v, (∃ d ∈ contenders cmd b s.rom K, romBit d K = v) ↔
      ∃ d ∈ participants cmd b, agreesBelow s.rom K d = true ∧ romBit d K = v := fun v => by
    simp only [contenders, participants, List.mem_filter, and_assoc]
  rw [h.answersAt_eq hs, all_romBit_eq_false_iff, all_not_romBit_eq_false_iff, hmem, hmem, Splits,
    Bool.forall_bool]

/-- A position taken as the rule says, with a 0 noted exactly at a discrepancy. -/
theorem Ruled.directed (h : Ruled cmd b s0 K s) (hs : b.stuck = false) (h1 : 1 ≤ K) (h64 : K ≤ 64)
    (v z : Bool) (hmem : ∃ d ∈ contenders cmd b s.rom K, romBit d K = v)
    (hz : z = true ↔ Splits (participants cmd b) s.rom K)
    (hv : z = true → v = if K < s0.ld.toNat then romBit s0.rom K else K == s0.ld.toNat) :
    Ruled cmd b s0 (K + 1) (writeDirection K (withDirection K v z (afterReads K s))) := by
  have hrom : (writeDirection K (withDirection K v z (afterReads K s))).rom = setRomBit s.rom K v := by simp
  have hlz : (writeDirection K (withDirection K v z (afterReads K s))).lz =
      if z && !v then BitVec.ofNat 7 K else s.lz := by simp
  refine { h.toRacing.directed hs h1 h64 v z hmem with ld := ?ld, kept := ?kept, rule := ?rule, last := ?last }
  case ld =>
    rw [(writeDirection_positionKeeps K _).ld, (withDirection_positionKeeps K v z _).ld, afterReads_ld, h.ld]
  case kept =>
    intro k hk hk64
    rw [hrom, romBit_setRomBit_other s.rom K k v h1 (by omega) (by omega), h.kept k (by omega) hk64]
  case rule =>
    rw [hrom]
    exact h.rule.setRomBit h1 h64 fun hsplit => hv (hz.mpr hsplit)
  case last =>
    rw [hrom, hlz]
    by_cases hnote : z = true ∧ v = false
    · obtain ⟨hzt, rfl⟩ := hnote
      have hK : (BitVec.ofNat 7 K).toNat = K := Nat.mod_eq_of_lt (by omega)
      rw [if_pos (by simp [hzt]), hK]
      exact lastZero_setRomBit_false h1 h64 (hz.mp hzt)
    · rw [if_neg (by simpa using hnote)]
      exact h.last.setRomBit h1 h64 fun hsplit => by simpa [hz.mpr hsplit] using hnote

theorem discStep_ruled (h : Ruled cmd b s0 K s) (hs : b.stuck = false) (h1 : 1 ≤ K) (h64 : K ≤ 64) :
    ∃ t, discStep K s = .value .go t ∧ Ruled cmd b s0 (K + 1) t := by
  have hsplits := h.splits_iff hs
  obtain ⟨hid, hcmp, -⟩ | ⟨hne, g⟩ | ⟨hid, hcmp, -, g⟩ | ⟨-, -, hk, hw, -⟩ := discStep_cases K s
  · exact absurd ⟨hid, hcmp⟩ (h.not_nobody hs)
  · have hagree : ¬Splits (participants cmd b) s.rom K := fun hsp => by
      obtain ⟨hid, hcmp⟩ := hsplits.mp hsp
      exact hne (hid.trans hcmp.symm)
    refine ⟨_, g, h.directed hs h1 h64 _ _ ?_ (by simp [hagree]) nofun⟩
    cases hid : (answersAt s).1 with
    | false => exact h.exists_zero hs hid
    | true => exact h.exists_one hs (by simpa [hid] using hne.symm)
  · refine ⟨_, g, h.directed hs h1 h64 _ _ ?_ (by simp [hsplits, hid, hcmp]) fun _ => ?_⟩
    · generalize (if K < s.ld.toNat then romBit s.rom K else K == s.ld.toNat) = v
      cases v with
      | false => exact h.exists_zero hs hid
      | true => exact h.exists_one hs hcmp
    · rw [h.ld, h.kept K le_rfl h64]
  · exact absurd (h.replay K h1 hk) (by simp [hw])

theorem ruled_passStart (hb : s0.bus = .reference b) (hp : HasParticipant b cmd)
    (hw : WrittenBelow s0.romW s0.ld.toNat) : Ruled cmd b s0 1 (passStart cmd s0) := by
  have hrom : (passStart cmd s0).rom = s0.rom := by
    obtain ⟨bus, history, h⟩ := writeBitsFrom_keeps cmd 8 0 (afterPresence s0)
    rw [passStart, busWriteByte, h]
    rfl
  refine { racing_passStart hb hp hw with ld := ?_, kept := ?_, rule := ?_, last := ?_ }
  · exact (busWriteByte_positionKeeps cmd (afterPresence s0)).ld
  · exact fun k _ _ => by rw [hrom]
  · exact fun k h1 hk => absurd hk (by omega)
  · exact ⟨fun k h0 hk => absurd hk (by omega), fun h0 => absurd rfl h0⟩

/-- A pass on the reference bus with a participant comes to the end of its positions by the rules, with 201
events (R101, R119, R120, R125). -/
theorem searchCore_ruled (hf : s0.ldf = false) (hb : s0.bus = .reference b) (hp : HasParticipant b cmd)
    (hw : WrittenBelow s0.romW s0.ld.toNat) : ∃ u, searchCore cmd s0 = concludePass u ∧
      Ruled cmd b s0 65 u ∧ u.romW = allWritten ∧ NoRaise s0 u ∧ u.ldf = false ∧
      u.history.length = s0.history.length + 201 := by
  obtain ⟨u, hu, hcore, -, hall, hraise⟩ := searchCore_reference hf hb hp hw
  obtain ⟨u', hu', hend⟩ := positions_of_invariant (P := Ruled cmd b s0) le_rfl
    (fun K _ h1 h64 h => discStep_ruled h hp.free h1 h64) (ruled_passStart hb hp hw)
  obtain ⟨-, rfl⟩ := Flow.value.inj (hu.symm.trans hu')
  have hkeep := positions_positionKeeps 64 (passStart cmd s0)
  obtain ⟨events, hev, ⟨-, hlen⟩ | ⟨hno, -⟩⟩ := positions_events 64 (passStart cmd s0)
  · rw [hu] at hev hkeep
    refine ⟨u, hcore, hend, hall, hraise, ?_, ?_⟩
    · exact (hkeep.ldf.trans (busWriteByte_positionKeeps cmd (afterPresence s0)).ldf).trans hf
    · have hlength := congrArg List.length hev
      rw [List.length_append, passStart_history, List.length_append, List.length_cons, commandEvents_length,
        hlen] at hlength
      exact hlength
  · exact absurd hu (hno u)

end

/-! ### The device a pass finds -/

/-- The last 0 of a device is where the next pass turns: there are devices after it (R121). -/
theorem LastZero.exists_after {D : List Rom} {a : Rom} {z : Nat} (h : LastZero D a 65 z) (hz : z ≠ 0) :
    ∃ d ∈ D, traversalKey a < traversalKey d := by
  obtain ⟨h65, hsplit, hbit⟩ := h.here hz
  obtain ⟨d, hd, hag, hd1⟩ := hsplit true
  exact ⟨d, hd, traversalKey_lt (by omega) (by omega) hag hbit hd1⟩

/-- A device after `a` first differs from it no later than at the last 0 of `a`. -/
theorem LastZero.first_difference_le {D : List Rom} {a d : Rom} {z j : Nat} (h : LastZero D a 65 z)
    (ha : a ∈ D) (hd : d ∈ D) (hj64 : j ≤ 64) (hag : agreesBelow a j d = true) (haj : romBit a j = false)
    (hdj : romBit d j = true) : j ≤ z := by
  by_contra hzj
  have hsplit : Splits D a j := splits_of_ne hd ha hag (agreesBelow_self a j) (by simp [haj, hdj])
  rw [h.above j (by omega) (by omega) hsplit] at haj
  cases haj

theorem LastZero.none_after {D : List Rom} {a d : Rom} (h : LastZero D a 65 0) (ha : a ∈ D) (hd : d ∈ D) :
    ¬traversalKey a < traversalKey d := by
  intro hlt
  obtain ⟨j, h1, h64, hag, haj, hdj⟩ := exists_of_traversalKey_lt hlt
  have hj := h.first_difference_le ha hd h64 hag haj hdj
  omega

section
variable {D : List Rom} {s0 : State} {r : Rom}

/-- The rule at the first position at which a device found differs from an earlier one (R119). -/
theorem FollowsRule.rule_of_earlier (h : FollowsRule D s0 65 r) (hr : r ∈ D) {d : Rom} (hd : d ∈ D)
    (hlt : traversalKey d < traversalKey r) : ∃ k, 1 ≤ k ∧ k ≤ 64 ∧ agreesBelow d k r = true ∧
      romBit d k = false ∧ (if k < s0.ld.toNat then romBit s0.rom k else k == s0.ld.toNat) = true := by
  obtain ⟨k, h1, h64, hag, hdk, hrk⟩ := exists_of_traversalKey_lt hlt
  have hsplit : Splits D r k :=
    splits_of_ne hr hd (agreesBelow_self r k) (agreesBelow_comm hag) (by simp [hdk, hrk])
  exact ⟨k, h1, h64, hag, hdk, (h k h1 (by omega) hsplit).symm.trans hrk⟩

/-- From LD = 0 a pass finds the device with the least key (R119, R123). -/
theorem FollowsRule.least (h : FollowsRule D s0 65 r) (hr : r ∈ D) (hld : s0.ld = 0#7) {d : Rom}
    (hd : d ∈ D) : traversalKey r ≤ traversalKey d := by
  by_contra hlt
  obtain ⟨k, h1, -, -, -, hrule⟩ := h.rule_of_earlier hr hd (by omega)
  have hk : k ≠ 0 := by omega
  simp [hld, hk] at hrule

/-- Below LD a pass finds again the device it starts from (R119). -/
theorem FollowsRule.replays (h : FollowsRule D s0 65 r) (hr : r ∈ D) (hr0 : s0.rom ∈ D) {k : Nat}
    (h1 : 1 ≤ k) (hk : k < s0.ld.toNat) (hk64 : k ≤ 64) : romBit r k = romBit s0.rom k := by
  induction k using Nat.strong_induction_on with
  | _ k ih =>
    by_contra hne
    have hag : agreesBelow r k s0.rom = true :=
      (agreesBelow_iff _ _ _).mpr fun j hj hj1 => (ih j hj hj1 (by omega) (by omega)).symm
    have hrule := h k h1 (by omega) (splits_of_ne hr hr0 (agreesBelow_self r k) hag hne)
    rw [if_pos hk] at hrule
    exact hne hrule

theorem FollowsRule.agreesBelow_ld (h : FollowsRule D s0 65 r) (hr : r ∈ D) (hr0 : s0.rom ∈ D)
    (hld : s0.ld.toNat ≤ 64) : agreesBelow r s0.ld.toNat s0.rom = true :=
  (agreesBelow_iff _ _ _).mpr fun _ hj hj1 => (h.replays hr hr0 hj1 hj (by omega)).symm

/-- At LD, the last 0 of the device it starts from, a pass takes 1 (R119). -/
theorem FollowsRule.turns_at_ld (h : FollowsRule D s0 65 r) (hr : r ∈ D) (hr0 : s0.rom ∈ D)
    (hlast : LastZero D s0.rom 65 s0.ld.toNat) (hld : s0.ld.toNat ≠ 0) : romBit r s0.ld.toNat = true := by
  obtain ⟨h65, hsplit, -⟩ := hlast.here hld
  have hag := h.agreesBelow_ld hr hr0 (by omega)
  obtain ⟨d, hd, hdag, hd1⟩ := hsplit true
  by_contra hr1
  have hrule := h _ (by omega) h65 (splits_of_ne hd hr (agreesBelow_trans hag hdag) (agreesBelow_self r _)
    fun heq => hr1 (heq.symm.trans hd1))
  simp only [lt_irrefl, if_false, beq_self_eq_true] at hrule
  exact hr1 hrule

/-- From a device with devices after it, a pass finds the next one in the traversal key (R123). -/
theorem FollowsRule.next (h : FollowsRule D s0 65 r) (hr : r ∈ D) (hr0 : s0.rom ∈ D)
    (hlast : LastZero D s0.rom 65 s0.ld.toNat) (hld : s0.ld.toNat ≠ 0) :
    traversalKey s0.rom < traversalKey r ∧
      ∀ d ∈ D, traversalKey s0.rom < traversalKey d → traversalKey r ≤ traversalKey d := by
  obtain ⟨h65, -, hzero⟩ := hlast.here hld
  have hag := h.agreesBelow_ld hr hr0 (by omega)
  have hone := h.turns_at_ld hr hr0 hlast hld
  refine ⟨traversalKey_lt (by omega) (by omega) (agreesBelow_comm hag) hzero hone, ?_⟩
  intro d hd hafter
  by_contra hlt
  obtain ⟨k, h1, h64, hdr, hdk, hrule⟩ := h.rule_of_earlier hr hd (by omega)
  have hreplay : ∀ j, j < k → 1 ≤ j → j < s0.ld.toNat → romBit d j = romBit s0.rom j :=
    fun j hj hj1 hjl =>
      ((agreesBelow_iff _ _ _).mp hdr j hj hj1).symm.trans (h.replays hr hr0 hj1 hjl (by omega))
  split at hrule
  · next hk =>
    have hds0 : agreesBelow d k s0.rom = true :=
      (agreesBelow_iff _ _ _).mpr fun j hj hj1 => (hreplay j hj hj1 (by omega)).symm
    exact absurd (traversalKey_lt h1 h64 hds0 hdk hrule) (by omega)
  · have hk : k = s0.ld.toNat := beq_iff_eq.mp hrule
    obtain ⟨j, hj1, hj64, hjag, h0j, hdj⟩ := exists_of_traversalKey_lt hafter
    have hjle := hlast.first_difference_le hr0 hd hj64 hjag h0j hdj
    obtain hjk | rfl := Nat.lt_or_eq_of_le (hk ▸ hjle)
    · rw [hreplay j hjk hj1 (by omega), h0j] at hdj
      cases hdj
    · rw [hdk] at hdj
      cases hdj

end

/-! ### The devices in the order of their keys -/

/-- The devices after `r` in the traversal key. -/
def devicesAfter (D : List Rom) (r : Rom) : List Rom :=
  D.filter fun d => decide (traversalKey r < traversalKey d)

theorem mem_devicesAfter {D : List Rom} {r d : Rom} :
    d ∈ devicesAfter D r ↔ d ∈ D ∧ traversalKey r < traversalKey d := by
  simp [devicesAfter]

/-- A list of distinct codes is its least one and those after it. -/
theorem perm_cons_devicesAfter {E : List Rom} {r : Rom} (hE : E.Nodup) (hr : r ∈ E)
    (hleast : ∀ d ∈ E, traversalKey r ≤ traversalKey d) : E.Perm (r :: devicesAfter E r) := by
  have hnot : r ∉ devicesAfter E r := fun h => absurd (mem_devicesAfter.mp h).2 (lt_irrefl _)
  refine (List.perm_ext_iff_of_nodup hE (List.nodup_cons.mpr ⟨hnot, hE.filter _⟩)).mpr fun d => ?_
  rw [List.mem_cons, mem_devicesAfter]
  constructor
  · intro hd
    obtain heq | hlt := Nat.eq_or_lt_of_le (hleast d hd)
    · exact .inl (traversalKey_injective heq).symm
    · exact .inr ⟨hd, hlt⟩
  · rintro (rfl | ⟨hd, -⟩)
    · exact hr
    · exact hd

theorem devicesAfter_devicesAfter (D : List Rom) {r q : Rom} (h : traversalKey r < traversalKey q) :
    devicesAfter (devicesAfter D r) q = devicesAfter D q := by
  rw [devicesAfter, devicesAfter, List.filter_filter, devicesAfter]
  refine List.filter_congr fun d _ => ?_
  simp only [Bool.and_eq_decide, decide_eq_true_eq, decide_eq_decide]
  omega

end Sys2Proof.Machine
end

section
/-!
PROOF. ENUMERATE on the reference bus (spec/30_encoding.md R76, 41_search.md R123): each round records the
device the block holds and goes on to the next in the traversal key, until none is left.
-/

namespace Sys2Proof.Machine

/-! ### The block between two passes of an enumeration -/

/-- `s` after the host has been answered. -/
def withAnswers (as : List HostAnswer) (s : State) : State := { s with answers := as }

@[simp] theorem withAnswers_rom (as : List HostAnswer) (s : State) : (withAnswers as s).rom = s.rom := rfl

/-- A running block on a reference bus with the devices `D` holds one of them, found by a pass whose last 0 is
in LD. -/
structure Holding (D : List Rom) (s : State) : Prop where
  running : isHalted s = false
  bus     : ∃ c, s.bus = .reference c ∧ c.devices = D ∧ c.stuck = false
  romW    : s.romW = allWritten
  mem     : s.rom ∈ D
  last    : LastZero D s.rom 65 s.ld.toNat
  ldf     : s.ldf = (s.ld == 0#7)
  result  : s.result = ⟨true, false, false⟩

theorem Holding.answered {D : List Rom} {s : State} (h : Holding D s) (as : List HostAnswer) :
    Holding D (withAnswers as s) :=
  { h with }

/-- All devices take part in a pass with SEARCH_COMMAND (R97). -/
theorem participants_searchCommand (b : RefBus) : participants Config.searchCommand b = b.devices :=
  List.filter_eq_self.mpr fun d _ => participates_searchCommand d

/-- A pass of FIRST or NEXT on a reference bus with devices, none of them all zero, finds one by the rules. -/
theorem PassStart.finds {i : Instr} {s s0 : State} {D : List Rom} (h : PassStart i s s0 Config.searchCommand)
    (hf : s0.ldf = false) (hs : isHalted s = false)
    (hbus : ∃ c, s.bus = .reference c ∧ c.devices = D ∧ c.stuck = false) (hD : D.Nodup) (hne : D ≠ [])
    (h0 : 0#64 ∉ D) (hw : WrittenBelow s0.romW s0.ld.toNat) :
    ∃ t, exec i s = .next t ∧ Holding D t ∧ FollowsRule D s0 65 t.rom ∧
      t.history.length = s.history.length + 201 := by
  obtain ⟨c, hc, rfl, hfree⟩ := hbus
  obtain ⟨d, hd⟩ := List.exists_mem_of_ne_nil _ hne
  obtain ⟨hbus0, hhist0, -, -⟩ := PassBegins.start_keeps (.inl h)
  have hp : HasParticipant c Config.searchCommand := ⟨hD, hfree, d, hd, participates_searchCommand d⟩
  obtain ⟨u, hcore, hu, hall, -, hldf, hlen⟩ := searchCore_ruled hf (hbus0.trans hc) hp hw
  have hlast := hu.last
  have hrule := hu.rule
  rw [participants_searchCommand] at hlast hrule
  obtain ⟨hmem, -⟩ := hu.rom_mem
  have hz : u.rom ≠ 0#64 := fun heq => h0 (heq ▸ hmem)
  have hvalue := hcore.trans (concludePass_found u hu.ok hz)
  obtain ⟨hfault, -⟩ := h.frame hvalue
  have hdone : (completePass u).ldf = (u.lz == 0#7) := by
    rw [completePass_ldf, hldf]
    by_cases hlz : u.lz = 0#7 <;> simp [hlz]
  refine ⟨_, h.exec_of_value hvalue, ?_, hrule, by rw [← hhist0]; exact hlen⟩
  have hrunning := (isHalted_eq_false _).mpr (hfault.trans ((isHalted_eq_false s).mp hs))
  exact ⟨hrunning, ⟨_, hu.bus, rfl, hfree⟩, hall, hmem, hlast, hdone, rfl⟩

/-- NEXT from a device with devices after it finds the next one. -/
theorem Holding.next {D : List Rom} {s : State} (h : Holding D s) (hD : D.Nodup) (h0 : 0#64 ∉ D)
    (hld : s.ldf = false) : ∃ t, exec .next s = .next t ∧ Holding D t ∧
      (devicesAfter D s.rom).Perm (t.rom :: devicesAfter D t.rom) ∧
      t.history.length = s.history.length + 201 := by
  have hne : s.ld.toNat ≠ 0 := fun hz => by
    have hld0 : s.ld = 0#7 := BitVec.eq_of_toNat_eq hz
    simp [h.ldf, hld0] at hld
  obtain ⟨h65, -⟩ := h.last.here hne
  obtain ⟨t, hx, ht, hrule, hlen⟩ := PassStart.finds (.inr (.inl ⟨rfl, rfl, rfl⟩)) hld h.running h.bus hD
    (List.ne_nil_of_mem h.mem) h0 (by rw [h.romW]; exact writtenBelow_allWritten _ (by omega))
  obtain ⟨hlt, hnext⟩ := hrule.next ht.mem h.mem h.last hne
  refine ⟨t, hx, ht, ?_, hlen⟩
  rw [← devicesAfter_devicesAfter D hlt]
  exact perm_cons_devicesAfter (hD.filter _) (mem_devicesAfter.mpr ⟨ht.mem, hlt⟩) fun d hd =>
    hnext d (mem_devicesAfter.mp hd).1 (mem_devicesAfter.mp hd).2

/-- LDF is 1 exactly when no device comes after the one held (R121). -/
theorem Holding.ldf_iff {D : List Rom} {s : State} (h : Holding D s) :
    s.ldf = true ↔ devicesAfter D s.rom = [] := by
  rw [h.ldf, beq_iff_eq]
  constructor
  · intro hld
    have hlast := h.last
    rw [hld] at hlast
    exact List.eq_nil_iff_forall_not_mem.mpr fun d hd =>
      hlast.none_after h.mem (mem_devicesAfter.mp hd).1 (mem_devicesAfter.mp hd).2
  · intro hnil
    by_contra hld
    obtain ⟨d, hd⟩ := h.last.exists_after fun hz => hld (BitVec.eq_of_toNat_eq hz)
    exact List.not_mem_nil (hnil ▸ mem_devicesAfter.mpr hd)

/-! ### The host's requests in a round -/

theorem hostGet_answered {s : State} {off v : Byte} (hs : isHalted s = false) (hr : regRead off s = .ok v) :
    ∃ as, hostGet off s = .value v (withAnswers as s) := ⟨_, hostGet_of_ok hs hr⟩

theorem hostCommand_completes {i : Instr} {s t : State} (hi : i.WF) (hs : isHalted s = false)
    (hx : exec i s = .next t) (ht : isHalted t = false) :
    ∃ as, hostCommand i s = .value () (withAnswers as t) := by
  obtain ⟨w, he, hd⟩ := exists_word_of_wf hi
  exact ⟨_, hostCommand_of_next hs he hd hx ht⟩

/-- `RD ROMi` for bytes of a written ROM. -/
theorem hostGetRom_written (n i : Nat) {s : State} (hs : isHalted s = false) (hw : s.romW = allWritten)
    (h8 : i + n ≤ 8) :
    ∃ as, hostGetRom n i s = .value ((List.range' i n).map (romByte s.rom)) (withAnswers as s) := by
  induction n generalizing i s with
  | zero => exact ⟨s.answers, rfl⟩
  | succ n ih =>
    have hbyte : romByte s.romW i = 0xFF#8 := by rw [hw, romByte_allWritten (by omega)]
    have hread := regRead_romByte_written (s := s) (by omega) hbyte
    obtain ⟨as, hget⟩ := hostGet_answered hs hread
    obtain ⟨as', hrest⟩ := ih (i + 1) (s := withAnswers as s) hs hw (by omega)
    refine ⟨as', ?_⟩
    rw [hostGetRom, hget, andThen_value, hrest, andThen_value, List.range'_succ, List.map_cons]
    rfl

/-- A round records the device held and goes on after NEXT. -/
theorem Holding.round {D : List Rom} {s : State} (h : Holding D s) : ∃ as, ∀ t,
    exec .next (withAnswers as s) = .next t → isHalted t = false → ∃ as', ∀ n,
      enumerateFrom (n + 1) s = (s.rom :: (enumerateFrom n (withAnswers as' t)).1,
        (enumerateFrom n (withAnswers as' t)).2) := by
  obtain ⟨as1, hresult⟩ := hostGet_answered (off := RegName.result.offset) h.running rfl
  have hres : (resultByte s.result).getLsbD 0 = true := by
    rw [h.result]
    decide
  obtain ⟨as2, hrom⟩ := hostGetRom_written 8 0 (s := withAnswers as1 s) h.running h.romW le_rfl
  have hcode : romOfBytes ((List.range' 0 8).map (romByte s.rom)) = s.rom := by
    rw [← List.range_eq_range']
    exact romOfBytes_romBytes s.rom
  refine ⟨as2, fun t hx ht => ?_⟩
  obtain ⟨as3, hnext⟩ := hostCommand_completes rfl (h.answered as2).running hx ht
  have hnext' : hostCommand .next (withAnswers as2 (withAnswers as1 s)) = .value () (withAnswers as3 t) := hnext
  refine ⟨as3, fun n => ?_⟩
  simp only [enumerateFrom, hresult, hres, if_true, hrom, hnext', withAnswers_rom, hcode]

/-- When RESULT reports no device the loop ends. -/
theorem enumerateFrom_of_res_false {s : State} (n : Nat) (hs : isHalted s = false)
    (hr : s.result = ⟨false, false, false⟩) :
    ∃ as, enumerateFrom (n + 1) s = ([], .value () (withAnswers as s)) := by
  obtain ⟨as, hresult⟩ := hostGet_answered (off := RegName.result.offset) hs rfl
  have hres : (resultByte s.result).getLsbD 0 = false := by
    rw [hr]
    decide
  exact ⟨as, by simp only [enumerateFrom, hresult, hres, Bool.false_eq_true, if_false]⟩

/-! ### The loop -/

/-- How an enumeration ends from `s` after `m` more devices: exhausted, 201 events for each (R121, R125). -/
structure Exhausted (s : State) (m : Nat) (t : State) : Prop where
  ldf     : t.ldf = true
  result  : t.result = ⟨false, false, false⟩
  running : t.fault = .none
  history : t.history.length = s.history.length + 201 * m

theorem Exhausted.trans {s u t : State} {m : Nat} (h : Exhausted u m t)
    (hu : u.history.length = s.history.length + 201) : Exhausted s (m + 1) t :=
  { h with history := by rw [h.history, hu]; omega }

/-- The last round: NEXT is exhausted, and RESULT ends the loop. -/
theorem Holding.enumerateFrom_last {D : List Rom} {s : State} (h : Holding D s) (hldf : s.ldf = true) :
    ∃ t, enumerateFrom 2 s = ([s.rom], .value () t) ∧ Exhausted s 0 t := by
  obtain ⟨as, hround⟩ := h.round
  obtain ⟨t, hx, hrunning, hend, hres, hhist⟩ : ∃ t, exec .next (withAnswers as s) = .next t ∧
      isHalted t = false ∧ t.ldf = true ∧ t.result = ⟨false, false, false⟩ ∧ t.history = s.history :=
    ⟨_, exhaustedSearchDoesNothing .next (withAnswers as s) _ _ (.inr (.inl ⟨rfl, rfl, rfl⟩)) hldf,
      h.running, hldf, rfl, rfl⟩
  obtain ⟨as', hloop⟩ := hround t hx hrunning
  obtain ⟨as'', hstop⟩ := enumerateFrom_of_res_false (s := withAnswers as' t) 0 hrunning hres
  refine ⟨withAnswers as'' (withAnswers as' t), by rw [hloop 1, hstop], ?_⟩
  exact ⟨hend, hres, (isHalted_eq_false t).mp hrunning, congrArg List.length hhist⟩

/-- From a device held the loop records it and then every device after it, in ascending traversal key. -/
theorem Holding.enumerateFrom_eq {D : List Rom} (hD : D.Nodup) (h0 : 0#64 ∉ D) (m : Nat) {s : State}
    (h : Holding D s) (hm : (devicesAfter D s.rom).length = m) : ∃ found t,
      enumerateFrom (m + 2) s = (s.rom :: found, .value () t) ∧ found.Perm (devicesAfter D s.rom) ∧
      ((s.rom :: found).Pairwise fun x y => traversalKey x < traversalKey y) ∧ Exhausted s m t := by
  induction m generalizing s with
  | zero =>
    have hnil := List.length_eq_zero_iff.mp hm
    obtain ⟨t, hloop, ht⟩ := h.enumerateFrom_last (h.ldf_iff.mpr hnil)
    exact ⟨[], t, hloop, hnil ▸ .nil, List.pairwise_singleton _ _, ht⟩
  | succ m ih =>
    have hldf : s.ldf = false := Bool.eq_false_of_not_eq_true fun hf => by
      simp [h.ldf_iff.mp hf] at hm
    obtain ⟨as, hround⟩ := h.round
    obtain ⟨t, hx, ht, hperm, hlen⟩ := (h.answered as).next hD h0 hldf
    obtain ⟨as', hloop⟩ := hround t hx ht.running
    have hm' : (devicesAfter D t.rom).length = m := Nat.succ.inj (hperm.length_eq.symm.trans hm)
    obtain ⟨found, u, hrest, hfound, hsorted, hu⟩ := ih (ht.answered as') hm'
    have hall : (t.rom :: found).Perm (devicesAfter D s.rom) := (hfound.cons t.rom).trans hperm.symm
    refine ⟨t.rom :: found, u, ?_, hall, ?_, hu.trans hlen⟩
    · rw [hloop (m + 2), hrest, withAnswers_rom]
    · exact List.pairwise_cons.mpr ⟨fun d hd => (mem_devicesAfter.mp (hall.subset hd)).2, hsorted⟩

/-- Settles O31: FIRST finds the device with the least key, and the loop goes through those after it. -/
theorem enumerationIsAscendingTraversalKey : Obligations.EnumerationIsAscendingTraversalKey := by
  refine ⟨fun s b hs hb hwf hne hfree h0 => ?_, fun s n hs => ?_⟩
  · obtain ⟨t, hx, ht, hrule, hlen⟩ := PassStart.finds (i := .first) (.inl ⟨rfl, rfl, rfl⟩) rfl hs
      ⟨b, hb, rfl, hfree⟩ hwf hne h0 (writtenBelow_zero _)
    have hperm := perm_cons_devicesAfter hwf ht.mem fun d hd => hrule.least ht.mem rfl hd
    have hcount : b.devices.length = (devicesAfter b.devices t.rom).length + 1 := hperm.length_eq
    obtain ⟨as, hfirst⟩ := hostCommand_completes rfl hs hx ht.running
    obtain ⟨found, u, hloop, hfound, hsorted, hu⟩ := (ht.answered as).enumerateFrom_eq hwf h0 _ rfl
    obtain ⟨hldf, hres, hfault, hhist⟩ := hu.trans hlen
    refine ⟨t.rom :: found, u, ?_, (hfound.cons t.rom).trans hperm.symm, hsorted, hldf, hres, hfault, ?_⟩
    · rw [enumerate, hfirst, hcount]
      exact hloop
    · rw [hhist, hcount]
      rfl
  · rw [enumerate, hostCommand_of_halted .first hs]

end Sys2Proof.Machine
end

section
/-!
PROOF. The family commands (spec/42_family.md R140 to R142): what TARGET_SETUP and FAMILY_SKIP_SETUP write,
and the device the first NEXT after a TARGET_SETUP finds.
-/

namespace Sys2Proof.Machine

/-! ### TARGET_SETUP (R140) -/

/-- Every family code is a legal immediate, so TARGET_SETUP always has its effect. -/
theorem exec_targetSetup (fc : Byte) (s : State) :
    exec (.targetSetup fc.toNat) s = .next (targetSetup fc s) :=
  withImm8_toNat fc fun b => .next (targetSetup b s)

/-- The address value of a family code alone has the code in byte 0 and zeros elsewhere. -/
theorem romByte_setWidth (fc : Byte) (i : Nat) :
    romByte (fc.setWidth 64) i = if i = 0 then fc else 0#8 := by
  apply BitVec.eq_of_getLsbD_eq
  intro j hj
  rw [getLsbD_romByte, decide_eq_true hj, Bool.true_and, BitVec.getLsbD_setWidth]
  split
  · next hi =>
    have h64 : 8 * i + j < 64 := by omega
    rw [decide_eq_true h64, Bool.true_and, hi, Nat.mul_zero, Nat.zero_add]
  · next hi =>
    rw [BitVec.getLsbD_of_ge fc (8 * i + j) (by omega), Bool.and_false, BitVec.getLsbD_zero]

theorem romBytes_setWidth (fc : Byte) :
    romBytes (fc.setWidth 64) = [fc, 0#8, 0#8, 0#8, 0#8, 0#8, 0#8, 0#8] := by
  simp [romBytes, List.range_succ, romByte_setWidth]

/-- Settles O32: the command is `targetSetup`, whose ROM is the family code alone. -/
theorem targetSetupSeedsTheSearch : Obligations.TargetSetupSeedsTheSearch := by
  intro fc s
  refine ⟨?_, targetSetup fc s, exec_targetSetup fc s, rfl, romBytes_setWidth fc, romBit_allWritten⟩
  have hword : cmd16 0x4#4 (BitVec.ofNat 8 fc.toNat) = (fc ++ 0#4) ++ 0x4#4 := by
    rw [BitVec.ofNat_toNat, BitVec.setWidth_eq, cmd16]
  exact (encode_eq_some_iff _ _).mpr ⟨(wf_iff_of_operand rfl).mpr fc.isLt, hword.symm⟩

/-! ### FAMILY_SKIP_SETUP (R142) -/

theorem familySkip_ld_toNat (s : State) : (familySkip s).ld.toNat = s.lfd.toNat := by
  rw [familySkip, BitVec.toNat_setWidth]
  exact Nat.mod_eq_of_lt (by omega)

/-- LDF is set when LFD is 0, and kept otherwise. -/
theorem familySkip_ldf_eq (s : State) : (familySkip s).ldf = (s.ldf || s.lfd == 0#4) := by
  have hzero : (familySkip s).ld = 0#7 ↔ s.lfd = 0#4 := by
    rw [← BitVec.toNat_inj, ← BitVec.toNat_inj, familySkip_ld_toNat]
    rfl
  have hdef : (familySkip s).ldf = if (familySkip s).ld = 0#7 then true else s.ldf := rfl
  rw [hdef]
  by_cases h : s.lfd = 0#4 <;> simp [hzero, h]

/-- With LFD = 0 the enumeration ends. -/
theorem familySkip_of_lfd_zero {s : State} (h : s.lfd = 0#4) :
    familySkip s = { s with ld := 0#7, ldf := true } := by
  rw [familySkip, h]
  rfl

/-- Settles O33: the first FAMILY_SKIP_SETUP clears LFD, so the second ends the enumeration. -/
theorem familySkipRewindsToLfd : Obligations.FamilySkipRewindsToLfd :=
  ⟨rfl, fun s => ⟨familySkip s, rfl, rfl, familySkip_ld_toNat s, familySkip_ldf_eq s,
    congrArg Host.Outcome.next (familySkip_of_lfd_zero rfl)⟩⟩

/-! ### The first NEXT after TARGET_SETUP (R141) -/

/-- The family code of a device is its bits at the positions 1 to 8. -/
theorem agreesBelow_nine_iff (a d : Rom) : agreesBelow a 9 d = true ↔ romByte d 0 = romByte a 0 := by
  have hbit : ∀ (c : Rom) (k : Nat), k < 9 → 1 ≤ k → romBit c k = (romByte c 0).getLsbD (k - 1) :=
    fun c k hk h1 => by
      rw [getLsbD_romByte, decide_eq_true (by omega), Bool.true_and, Nat.mul_zero, Nat.zero_add, romBit]
  rw [agreesBelow_iff]
  constructor
  · intro h
    apply BitVec.eq_of_getLsbD_eq
    intro j hj
    have hj1 := h (j + 1) (by omega) (by omega)
    rwa [hbit d _ (by omega) (by omega), hbit a _ (by omega) (by omega)] at hj1
  · intro h k hk h1
    rw [hbit d k hk h1, hbit a k hk h1, h]

/-- A pass that replays the first positions of ROM keeps to them as long as some device has them: at a
discrepancy it takes ROM's bit, and elsewhere that device has the only bit there is (R119). -/
theorem FollowsRule.agreesBelow_of_device {D : List Rom} {s0 : State} {r d : Rom} {n : Nat}
    (h : FollowsRule D s0 65 r) (hr : r ∈ D) (hd : d ∈ D) (hn : n ≤ s0.ld.toNat) (h65 : n ≤ 65)
    (hag : agreesBelow s0.rom n d = true) : agreesBelow s0.rom n r = true := by
  have hdev := (agreesBelow_iff s0.rom n d).mp hag
  refine (agreesBelow_iff s0.rom n r).mpr fun k => ?_
  induction k using Nat.strong_induction_on with
  | _ k ih =>
    intro hk h1
    by_contra hne
    have hbelow : agreesBelow r k d = true := (agreesBelow_iff r k d).mpr fun j hj hj1 =>
      (hdev j (by omega) hj1).trans (ih j hj (by omega) hj1).symm
    have hsplit : Splits D r k := splits_of_ne hr hd (agreesBelow_self r k) hbelow fun heq =>
      hne (heq.trans (hdev k hk h1))
    have hrule := h k h1 (by omega) hsplit
    rw [if_pos (by omega)] at hrule
    exact hne hrule

/-- The conclusion of a pass does not touch ROM. -/
theorem endSearch_concludePass_rom (s : State) : (endSearch (concludePass s)).rom = s.rom := by
  obtain ⟨o, t, hc, ht⟩ := concludePass_value s
  rw [hc, ht, endSearch]

/-- What a search command on the reference bus leaves in ROM follows R119 at every discrepancy. -/
theorem afterSearch_followsRule {cmd : Byte} {b : RefBus} {s0 : State} (hf : s0.ldf = false)
    (hb : s0.bus = .reference b) (hp : HasParticipant b cmd) (hw : WrittenBelow s0.romW s0.ld.toNat) :
    FollowsRule (participants cmd b) s0 65 (afterSearch cmd s0).rom := by
  obtain ⟨u, hcore, hu, -⟩ := searchCore_ruled hf hb hp hw
  rw [afterSearch, hcore, endSearch_concludePass_rom]
  exact hu.rule

/-- Settles O35: the pass finds a device by O30, and LD = 64 makes it replay the eight positions of the family
code, which a device of the family has. -/
theorem targetedSearchFindsPresentFamily : Obligations.TargetedSearchFindsPresentFamily := by
  rintro s fc b hb hp ⟨d, hd, hfamily⟩
  rw [afterExec_of_next (exec_targetSetup fc s)]
  have hstart : PassStart .next (targetSetup fc s) (targetSetup fc s) Config.searchCommand :=
    .inr (.inl ⟨rfl, rfl, rfl⟩)
  have hw : WrittenBelow (targetSetup fc s).romW (targetSetup fc s).ld.toNat :=
    writtenBelow_allWritten 64 (by decide)
  obtain ⟨t, hx, hfault, hmem, -, -, -, hfound, -⟩ :=
    passOnReferenceBusFindsADevice _ _ _ _ b hstart rfl hb hp hw
  refine ⟨t, hx, hfault, hmem, ?_, fun hz => (hfound hz).2⟩
  have hrule := afterSearch_followsRule (s0 := targetSetup fc s) rfl hb hp hw
  obtain rfl := Host.Outcome.next.inj (hx.symm.trans hstart.exec_eq)
  rw [participants_searchCommand] at hrule
  have hseed : romByte (targetSetup fc s).rom 0 = fc := romByte_setWidth fc 0
  have hag := hrule.agreesBelow_of_device hmem hd (n := 9) (show 9 ≤ 64 by decide) (by decide)
    ((agreesBelow_nine_iff _ d).mpr (hfamily.trans hseed.symm))
  exact ((agreesBelow_nine_iff _ _).mp hag).trans hseed

end Sys2Proof.Machine
end

section
/-!
PROOF. How VERIFY ends (spec/43_verify.md R150 to R154): what its compare decides, what it leaves when its pass
returns, and what the later commands find.
-/

namespace Sys2Proof.Machine

/-! ### The three ends of VERIFY (R150) -/

/-- What VERIFY leaves when its pass returned `o` in `u` and nothing faulted: the session restored, and the
report of R152. -/
def verifyDone (s : State) (o : PassOutcome) (u : State) : State :=
  { restoreSession u with
    result := verifyResult (isFound o) (isFound o && u.rom == s.rom)
    ph := .idle }

section
variable {s u : State} {o : PassOutcome}

/-- The shadows hold the session VERIFY was given until its restore (R153). -/
theorem verifyPass_shadows (hc : searchCore Config.searchCommand (verifyStart s) = .value o u) :
    u.sRom = s.rom ∧ u.sRomW = s.romW ∧ u.sLd = s.ld ∧ u.sLfd = s.lfd ∧ u.sLdf = s.ldf := by
  have hkeep := searchCore_passKeeps Config.searchCommand (verifyStart s)
  rw [hc] at hkeep
  exact ⟨hkeep.sRom, hkeep.sRomW, hkeep.sLd, hkeep.sLfd, hkeep.sLdf⟩

/-- A fault at a replay ends VERIFY where it stands. -/
theorem afterVerify_of_raised (hc : searchCore Config.searchCommand (verifyStart s) = .raised u) :
    afterVerify s = u := by
  rw [afterVerify, hc, endVerify]

/-- VERIFY comes to its end when no device was found, or the ROM it compares with is wholly written. -/
theorem afterVerify_of_value (hc : searchCore Config.searchCommand (verifyStart s) = .value o u)
    (hw : o = .found → s.romW = allWritten) : afterVerify s = verifyDone s o u := by
  obtain ⟨hrom, hromW, -⟩ := verifyPass_shadows hc
  have hcmp : compareSaved (isFound o) u = .value (isFound o && u.rom == s.rom) u := by
    unfold compareSaved
    cases hfound : isFound o with
    | false => rfl
    | true => rw [hromW, hw (beq_iff_eq.mp hfound), hrom]; rfl
  rw [afterVerify, hc, endVerify_of_value hcmp, verifyDone]

/-- The compare with a ROM that has an unwritten bit faults (R154 case 6). -/
theorem afterVerify_of_unwritten (hc : searchCore Config.searchCommand (verifyStart s) = .value .found u)
    (hw : s.romW ≠ allWritten) : afterVerify s = raiseFault .unwrittenRead (.verify s.romW) u := by
  obtain ⟨-, hromW, -⟩ := verifyPass_shadows hc
  have hcmp : compareSaved true u = .raised (raiseFault .unwrittenRead (.verify s.romW) u) := by
    rw [compareSaved, hromW, if_pos rfl, if_neg hw]
  rw [afterVerify, hc]
  exact endVerify_of_raised hcmp

/-- A VERIFY that leaves the block running has come to its end. -/
theorem afterVerify_of_running (h : isHalted (afterVerify s) = false) : ∃ o u,
    searchCore Config.searchCommand (verifyStart s) = .value o u ∧ afterVerify s = verifyDone s o u := by
  rw [isHalted_eq_false] at h
  cases hc : searchCore Config.searchCommand (verifyStart s) with
  | raised u =>
    obtain ⟨hf, -⟩ := searchCore_raised _ _ u hc
    rw [afterVerify_of_raised hc, hf] at h
    cases h
  | value o u =>
    refine ⟨o, u, rfl, afterVerify_of_value hc ?_⟩
    rintro rfl
    by_contra hw
    rw [afterVerify_of_unwritten hc hw] at h
    cases h

/-- A VERIFY that comes to its end gives the session back and writes no other register but RESULT (R153). -/
theorem verifyDone_frame (hc : searchCore Config.searchCommand (verifyStart s) = .value o u) :
    KeepsSession s (verifyDone s o u) ∧ KeepsOutsideSearch s (verifyDone s o u) ∧
      (verifyDone s o u).fault = s.fault := by
  have hkeep := searchCore_passKeeps Config.searchCommand (verifyStart s)
  rw [hc] at hkeep
  exact ⟨{ restoreSession_keepsSession hc with }, ⟨hkeep.crc, hkeep.inputs, hkeep.answers⟩,
    (searchCore_noRaise _ _ u o hc).fault⟩

end

/-! ### The session afterwards (R153) -/

theorem afterSearch_keepsShadows (cmd : Byte) (s : State) : KeepsShadows s (afterSearch cmd s) := by
  have hkeep := searchCore_passKeeps cmd s
  obtain ⟨t, hc, ht, -⟩ | ⟨o, t, hc, ht⟩ := afterSearch_cases cmd s <;> rw [hc] at hkeep <;> rw [ht] <;>
    exact ⟨hkeep.sRom, hkeep.sRomW, hkeep.sLd, hkeep.sLfd, hkeep.sLdf⟩

/-- Only VERIFY writes the shadows (10_state.md R31). -/
theorem effect_keepsShadows {i : Instr} (hi : i ≠ .verify) (s : State) : KeepsShadows s (effect i s) := by
  cases i with
  | verify => exact absurd rfl hi
  | first => exact { afterSearch_keepsShadows _ (clearSession s) with }
  | next | search => exact afterSearch_keepsShadows _ s
  | resetSearch | targetSetup | familySkipSetup | crcClear | crcUpdate => exact ⟨rfl, rfl, rfl, rfl, rfl⟩

/-- Settles O36: the restored block differs from the one VERIFY was given in what no command can tell
(`Alike`), but for the bus, the history and RESULT. -/
theorem verifyRestoresTheSession : Obligations.VerifyRestoresTheSession := by
  intro s t hs hx ht
  obtain rfl : afterVerify s = t := Host.Outcome.next.inj hx
  obtain ⟨o, u, hc, hdone⟩ := afterVerify_of_running ht
  rw [hdone]
  obtain ⟨hsession, hout, hfault⟩ := verifyDone_frame hc
  have hshadows := verifyPass_shadows hc
  rw [isHalted_eq_false] at hs
  refine ⟨hsession, hout, rfl, hshadows, fun i v hi hv => ?_, fun i hwf => ?_⟩
  · obtain ⟨-, rfl⟩ := (exec_next_iff i _ v).mp hv
    exact effect_keepsShadows hi _
  · have halike : Alike (verifyDone s o u) { s with
        ph := .idle
        bus := (verifyDone s o u).bus
        history := (verifyDone s o u).history
        result := (verifyDone s o u).result } :=
      { hsession, hout with
        rom := fun k _ _ _ => congrArg (romBit · k) hsession.rom
        result := rfl
        ph := rfl
        fault := hfault
        faultInfo := fun h => absurd (hfault.trans hs) ((isHalted_eq_true _).mp h)
        history := rfl
        bus := rfl }
    exact ⟨_, _, (exec_next_iff i _ _).mpr ⟨hwf, rfl⟩, (exec_next_iff i _ _).mpr ⟨hwf, rfl⟩,
      effect_alike i halike⟩

/-! ### The report (R152) -/

/-- With every bit of ROM written, every replay of VERIFY's pass is. -/
theorem verifyStart_writtenBelow {s : State} (hw : s.romW = allWritten) :
    WrittenBelow (verifyStart s).romW (verifyStart s).ld.toNat := by
  rw [show (verifyStart s).romW = allWritten from hw]
  exact writtenBelow_allWritten 64 (by decide)

theorem romBytes_inj {a d : Rom} : romBytes a = romBytes d ↔ a = d :=
  (Function.LeftInverse.injective romOfBytes_romBytes).eq_iff

/-- A VERIFY that finds no device reports nothing in RESULT. -/
theorem verifyDone_result_of_not_found (s u : State) {o : PassOutcome} (ho : o ≠ .found) :
    (verifyDone s o u).result = ⟨false, false, false⟩ := by
  have hfound : isFound o = false := beq_eq_false_iff_ne.mpr ho
  simp [verifyDone, verifyResult, hfound]

/-- A VERIFY that finds a device reports whether it is the stored one. -/
theorem verifyDone_result_of_found (s u : State) :
    (verifyDone s .found u).result = verifyResult true (u.rom == s.rom) := rfl

/-- Settles O37: by how VERIFY's pass ends; with every bit of ROM written it returns and the compare reads
nothing unwritten. -/
theorem verifyReportsFoundAndSame : Obligations.VerifyReportsFoundAndSame := by
  intro s hs
  rw [← verifyStart]
  have running : ∀ {o u}, searchCore Config.searchCommand (verifyStart s) = .value o u →
      isHalted (verifyDone s o u) = false := fun hc => by
    rw [isHalted_eq_false, (verifyDone_frame hc).2.2]
    exact (isHalted_eq_false s).mp hs
  refine ⟨afterVerify s, rfl, fun hw => ?_, fun o u hc ho => ?_, fun ht => ?_⟩
  · obtain ⟨o, u, hc⟩ := searchCore_returns Config.searchCommand (verifyStart_writtenBelow hw)
    rw [afterVerify_of_value hc fun _ => hw]
    exact running hc
  · rw [afterVerify_of_value hc fun h => absurd h ho]
    exact ⟨running hc, verifyDone_result_of_not_found s u ho⟩
  · obtain ⟨o, u, hc, hdone⟩ := afterVerify_of_running ht
    rw [hdone]
    have hfound : isFound o = true ↔ o = .found := beq_iff_eq
    refine ⟨o, u, hc, rfl, rfl, (searchCore_outcome hc).1, hfound, ?_, rfl⟩
    rw [romBytes_inj, ← hfound, ← beq_iff_eq (a := u.rom), ← Bool.and_eq_true]
    rfl

end Sys2Proof.Machine
end

section
/-!
PROOF. VERIFY on the reference bus (spec/43_verify.md R151): which device the anchored pass finds.
-/

namespace Sys2Proof.Machine

/-- From LD = 64 a pass finds the device it starts from again, unless it has a twin with 1 at position 64
where it has 0: the pass takes 1 there (R151). -/
theorem FollowsRule.finds_start_iff {D : List Rom} {s0 : State} {r : Rom} (h : FollowsRule D s0 65 r)
    (hr : r ∈ D) (hr0 : s0.rom ∈ D) (hld : s0.ld = 64#7) :
    r = s0.rom ↔ romBit s0.rom 64 = true ∨ Machine.setRomBit s0.rom 64 true ∉ D := by
  have hld64 : s0.ld.toNat = 64 := by rw [hld]; rfl
  have hag : agreesBelow s0.rom 64 r = true :=
    agreesBelow_comm (hld64 ▸ h.agreesBelow_ld hr hr0 hld64.le)
  have takesOne : Splits D r 64 → romBit r 64 = true := fun hsplit => by
    simpa [hld64] using h 64 (by decide) (by decide) hsplit
  constructor
  · rintro rfl
    by_contra hno
    obtain ⟨hzero, htwin⟩ := not_or.mp hno
    refine hzero (takesOne (splits_of_ne (not_not.mp htwin) hr0 ?_ (agreesBelow_self _ _) ?_))
    · refine agreesBelow_comm ?_
      rw [agreesBelow_setRomBit_of_le _ _ _ (by decide) le_rfl]
      exact agreesBelow_self _ _
    · rw [romBit_setRomBit_self _ _ _ (by decide) le_rfl]
      exact Ne.symm hzero
  · intro hor
    by_contra hne
    obtain ⟨k, h1, h64, -, hdiff⟩ := exists_first_difference (Ne.symm hne)
    obtain rfl : k = 64 := by
      by_contra hk
      exact hdiff ((agreesBelow_iff _ _ _).mp hag k (by omega) h1)
    have hone := takesOne (splits_of_ne hr hr0 (agreesBelow_self r 64) (agreesBelow_comm hag) hdiff)
    obtain hbit | htwin := hor
    · exact hdiff (hone.trans hbit.symm)
    · have hr64 : agreesBelow (Machine.setRomBit s0.rom 64 true) 65 r = true := by
        rw [agreesBelow_setRomBit _ _ _ (by decide) le_rfl, hone, hag]
        rfl
      exact htwin (eq_of_agreesBelow hr64 ▸ hr)

/-- VERIFY of a written ROM on a reference bus with devices, none of them all zero, finds one by the rules. -/
theorem verifyPass_finds {s : State} {b : RefBus} (hb : s.bus = .reference b) (hwf : refBusWF b)
    (hfree : b.stuck = false) (h0 : 0#64 ∉ b.devices) (hw : s.romW = allWritten) (hne : b.devices ≠ []) :
    ∃ u, searchCore Config.searchCommand (verifyStart s) = .value .found u ∧ u.rom ∈ b.devices ∧
      FollowsRule b.devices (verifyStart s) 65 u.rom := by
  obtain ⟨d, hd⟩ := List.exists_mem_of_ne_nil _ hne
  have hp : HasParticipant b Config.searchCommand := ⟨hwf, hfree, d, hd, participates_searchCommand d⟩
  obtain ⟨u, hcore, hu, -⟩ := searchCore_ruled (s0 := verifyStart s) rfl hb hp (verifyStart_writtenBelow hw)
  have hrule := hu.rule
  rw [participants_searchCommand] at hrule
  obtain ⟨hmem, -⟩ := hu.rom_mem
  exact ⟨_, hcore.trans (concludePass_found u hu.ok fun hz => h0 (hz ▸ hmem)), hmem, hrule⟩

/-- VERIFY on a reference bus without a device gets no presence (R98). -/
theorem verifyPass_noPresence {s : State} {b : RefBus} (hb : s.bus = .reference b) (hnone : b.devices = []) :
    ∃ u, searchCore Config.searchCommand (verifyStart s) = .value .noPresence u := by
  have hp : (onReset (verifyStart s).bus).1 = false := by
    rw [show (verifyStart s).bus = .reference b from hb]
    simp [onReset, refReset, hnone]
  exact ⟨_, searchCore_noPresence _ rfl hp⟩

/-- The report of a device that is not the stored one. -/
theorem verifyDone_result_of_other {s u : State} (h : u.rom ≠ s.rom) :
    (verifyDone s .found u).result.vfound = true ∧ (verifyDone s .found u).result.vsame = false :=
  ⟨rfl, beq_eq_false_iff_ne.mpr h⟩

/-- The report of the stored device. -/
theorem verifyDone_result_of_same {s u : State} (h : u.rom = s.rom) :
    (verifyDone s .found u).result = ⟨true, true, true⟩ := by
  simp [verifyDone_result_of_found, verifyResult, h]

/-- Settles O38: with devices on the bus the pass finds one of them, the stored one by
`FollowsRule.finds_start_iff`; without, there is no presence. -/
theorem verifyOnReferenceBusTellsPresence : Obligations.VerifyOnReferenceBusTellsPresence := by
  intro s b hb hwf hfree h0 hw
  refine ⟨afterVerify s, rfl, ?_⟩
  by_cases hne : b.devices = []
  · obtain ⟨u, hc⟩ := verifyPass_noPresence hb hne
    obtain ⟨hsession, -, hfault⟩ := verifyDone_frame hc
    have habsent : s.rom ∉ b.devices := by simp [hne]
    rw [afterVerify_of_value hc fun _ => hw]
    exact ⟨hfault, hsession, fun h => absurd h habsent, fun h => absurd h habsent, fun h => absurd hne h,
      fun _ => verifyDone_result_of_not_found s u (by decide)⟩
  · obtain ⟨u, hc, hmem, hrule⟩ := verifyPass_finds hb hwf hfree h0 hw hne
    obtain ⟨hsession, -, hfault⟩ := verifyDone_frame hc
    have hstored : s.rom ∈ b.devices →
        (u.rom = s.rom ↔ romBit s.rom 64 = true ∨ setRomBit s.rom 64 true ∉ b.devices) :=
      fun h => hrule.finds_start_iff hmem h rfl
    rw [afterVerify_of_value hc fun _ => hw]
    refine ⟨hfault, hsession, fun h hor => verifyDone_result_of_same ((hstored h).mpr hor),
      fun h hzero htwin => verifyDone_result_of_other fun heq => ?_,
      fun _ habsent => verifyDone_result_of_other fun heq => habsent (heq ▸ hmem), fun h => absurd h hne⟩
    obtain hone | hnot := (hstored h).mp heq
    · exact absurd (hzero.symm.trans hone) (by decide)
    · exact hnot htwin

end Sys2Proof.Machine
end

section
/-!
PROOF. VERIFY of a ROM with an unwritten bit (spec/43_verify.md R150, R154 case 6): the pass is gone through by
the rules to its end, and the compare stops the block.
-/

namespace Sys2Proof.Machine

section
variable {cmd : Byte} {s0 s1 t : State} {rs : List Reading}

/-! ### The rules read nothing but the session -/

theorem ruleDirection_congr (hk : KeepsSession s0 s1) (k : Nat) :
    ruleDirection s1 rs k = ruleDirection s0 rs k := by
  rw [ruleDirection, ruleDirection, hk.ld, hk.rom]

theorem highestZero_congr (hk : KeepsSession s0 s1) (n : Nat) :
    highestZero s1 rs n = highestZero s0 rs n := by
  induction n with
  | zero => rfl
  | succ n ih => rw [highestZero, highestZero, tookZeroAt, tookZeroAt, ruleDirection_congr hk, ih]

/-- A pass gone through by the rules of one state is gone through by those of any other with its session and
history. -/
theorem Walked.congr_start {n : Nat} (h : Walked cmd s0 rs n t) (hk : KeepsSession s0 s1)
    (hh : s1.history = s0.history) : Walked cmd s1 rs n t where
  written := fun k h1 h64 => by
    rw [ruleDirection_congr hk, hk.rom, hk.romW]
    exact h.written k h1 h64
  lz := h.lz.trans (highestZero_congr hk n).symm
  lfd := by rw [h.lfd, familyZero, familyZero, highestZero_congr hk, hk.lfd]
  ok := h.ok
  ld := h.ld.trans hk.ld.symm
  ldf := h.ldf.trans hk.ldf.symm
  history := by simp only [h.history, hh, passEvents, ruleDirection_congr hk]

/-! ### A pass gone through to its end -/

/-- A pass that took 1 somewhere holds a code that is not all zero. -/
theorem Walked.rom_ne_zero (h : Walked cmd s0 rs 64 t)
    (hone : ∃ k, 1 ≤ k ∧ k ≤ 64 ∧ ruleDirection s0 rs k = true) : t.rom ≠ 0#64 := by
  obtain ⟨k, h1, h64, hk⟩ := hone
  intro hz
  have hbit := h.written k h1 h64
  rw [if_pos h64, hk, hz] at hbit
  simp [romBit] at hbit

/-- Completion sets LDF exactly when no 0 was taken at a discrepancy (R121). -/
theorem Walked.completePass_ldf (h : Walked cmd s0 rs 64 t) (hf : s0.ldf = false) :
    (completePass t).ldf = (highestZero s0 rs 64 == 0) := by
  rw [Machine.completePass_ldf, h.ldf, hf, ← h.lz]
  by_cases hlz : t.lz = 0#7
  · simp [hlz]
  · have hne : t.lz.toNat ≠ 0 := fun h0 => hlz (BitVec.eq_of_toNat_eq h0)
    simp [hlz, hne]

/-- A pass on the script of 64 readings concludes from the state the rules give. -/
theorem searchCore_walked_to_end (cmd : Byte) {rest : List Bool} {asked : Question} (hf : s0.ldf = false)
    (hb : s0.bus = .oracle (true :: (scriptOf rs ++ rest)) asked) (hlen : rs.length = 64)
    (hsome : SomebodyUpTo rs 64) (hread : ReplayReadable s0 rs 64) :
    ∃ t, searchCore cmd s0 = concludePass t ∧ Walked cmd s0 rs 64 t := by
  obtain ⟨t, hpos, ht, -⟩ := positions_walked cmd hb le_rfl hlen.ge hsome hread
  refine ⟨t, ?_, ht⟩
  rw [searchCore_of_presence cmd hf (by rw [hb]; rfl), hpos]
  rfl

end

/-- Settles O39: the pass completes by the rules with a device (`Walked`), and the compare raises in the state
it left. -/
theorem verifyCompareOfUnwrittenRomHalts : Obligations.VerifyCompareOfUnwrittenRomHalts := by
  intro s rs rest asked s0 hb hlen hsome hread hone hw
  have hk : KeepsSession (verifyStart s) s0 := ⟨rfl, rfl, rfl, rfl, rfl⟩
  obtain ⟨t, hcore, hwalked⟩ :=
    searchCore_walked_to_end Config.searchCommand (s0 := verifyStart s) rfl hb hlen hsome hread
  have ht : Walked Config.searchCommand s0 rs 64 t := hwalked.congr_start hk rfl
  have hc := hcore.trans (concludePass_found t ht.ok (ht.rom_ne_zero hone))
  have hkeep := searchCore_passKeeps Config.searchCommand (verifyStart s)
  rw [hc] at hkeep
  refine ⟨afterVerify s, rfl, ?_⟩
  rw [afterVerify_of_unwritten hc hw]
  exact ⟨rfl, rfl, ht.written.congr rfl rfl, ht.lz, ht.completePass_ldf rfl, ht.lfd, hkeep.result, ht.history,
    ⟨hkeep.crc, hkeep.inputs, hkeep.answers⟩⟩

end Sys2Proof.Machine
end

section
/-!
PROOF. The CRC-8 checker (spec/44_crc8.md R160 to R165): the step as a linear bijection of the exclusive or of CRC
and data, what CRC_CLEAR and CRC_UPDATE leave, alone and in sequence, and that no other command meets CRC.
-/

namespace Sys2Proof.Machine

/-! ### The table T (R164) -/

/-- On a data byte of which nothing is left, an iteration adds the polynomial for a low bit of 1. -/
theorem crcShift_eq : ∀ c : Byte, crcShift c = c >>> 1 ^^^ bif c.getLsbD 0 then crcPoly else 0#8 := by
  decide

theorem crcShift_xor (x y : Byte) : crcShift (x ^^^ y) = crcShift x ^^^ crcShift y := by
  have hpoly : (bif x.getLsbD 0 ^^ y.getLsbD 0 then crcPoly else 0#8) =
      (bif x.getLsbD 0 then crcPoly else 0#8) ^^^ bif y.getLsbD 0 then crcPoly else 0#8 := by
    cases x.getLsbD 0 <;> cases y.getLsbD 0 <;> rfl
  rw [crcShift_eq, crcShift_eq x, crcShift_eq y, BitVec.ushiftRight_xor_distrib, BitVec.getLsbD_xor, hpoly]
  ac_rfl

theorem crcIterations_zero_xor (n : Nat) (x y : Byte) :
    crcIterations n (x ^^^ y) 0#8 = crcIterations n x 0#8 ^^^ crcIterations n y 0#8 := by
  induction n generalizing x y with
  | zero => rfl
  | succ n ih => simp only [crcIterations_succ_zero, crcShift_xor, ih]

/-- The data byte is shifted out whole, so only its exclusive or with CRC counts. -/
theorem crcStep_eq_crcIterations (c b : Byte) : crcStep c b = crcIterations 8 (c ^^^ b) 0#8 := by
  have hout : b >>> 8 = 0#8 := BitVec.ushiftRight_eq_zero (le_refl 8)
  rw [crcStep, crcIterations_xor, hout, BitVec.xor_zero]

theorem crcStep_eq_crcTable (c b : Byte) : crcStep c b = crcTable (c ^^^ b) := by
  rw [crcTable, crcStep_eq_crcIterations, crcStep_eq_crcIterations, BitVec.zero_xor]

theorem crcTable_xor (x y : Byte) : crcTable (x ^^^ y) = crcTable x ^^^ crcTable y := by
  simp only [crcTable, crcStep_eq_crcIterations, BitVec.zero_xor, crcIterations_zero_xor]

/-- Two bytes with one remainder have the remainder 0 of their difference, which is 0 then. -/
theorem crcTable_injective : crcTable.Injective := by
  intro x y h
  have hzero : crcTable (x ^^^ y) = 0x00#8 := by rw [crcTable_xor, h, BitVec.xor_self]
  exact BitVec.xor_eq_zero_iff.mp ((crcStep_eq_zero_iff _ _).mp hzero)

theorem crcTable_bijective : crcTable.Bijective :=
  have : Finite Byte := .of_injective BitVec.toFin fun _ _ => BitVec.eq_of_toFin_eq
  Finite.injective_iff_bijective.mp crcTable_injective

/-- Settles O40: an iteration is linear, so T is, and the two tests of a ROM code are one by the steps that give
0. -/
theorem crcTableAlgebra : Obligations.CrcTableAlgebra := by
  refine ⟨crcStep_eq_crcTable, crcTable_xor, crcTable_bijective, rfl, crcStep_eq_zero_iff,
    fun a => ?romCode, by decide, rfl⟩
  have hvalid : romCodeValid a = true ↔ crc8 ((romBytes a).take 7) = romByte a 7 := beq_iff_eq
  refine ⟨hvalid, ?_⟩
  rw [← hvalid, romCodeValid_eq_crc8_romBytes, beq_iff_eq]

/-! ### CRC_UPDATE and CRC_CLEAR (R161, R162) -/

theorem xor_byte_bijective (c : Byte) : (fun b : Byte => c ^^^ b).Bijective :=
  Function.Involutive.bijective fun b => by
    rw [← BitVec.xor_assoc, BitVec.xor_self, BitVec.zero_xor]

theorem crcStep_bijective_data (c : Byte) : (crcStep c).Bijective := by
  have hstep : crcStep c = crcTable ∘ fun b => c ^^^ b := funext (crcStep_eq_crcTable c)
  exact hstep ▸ crcTable_bijective.comp (xor_byte_bijective c)

/-- CRC and data enter a step alike. -/
theorem crcStep_comm (c b : Byte) : crcStep c b = crcStep b c := by
  rw [crcStep_eq_crcTable, crcStep_eq_crcTable, BitVec.xor_comm]

theorem crcStep_bijective_crc (b : Byte) : (fun c => crcStep c b).Bijective := by
  simpa only [crcStep_comm _ b] using crcStep_bijective_data b

/-- Every byte is a legal immediate, so CRC_UPDATE always has its effect. -/
theorem exec_crcUpdate (b : Byte) (s : State) :
    exec (.crcUpdate b.toNat) s = .next { s with crc := crcStep s.crc b } :=
  withImm8_toNat b fun d => .next { s with crc := crcStep s.crc d }

theorem encode_crcUpdate (b : Byte) : encode (.crcUpdate b.toNat) = some ((b ++ 0#4) ++ 0x8#4) := by
  have hword : cmd16 0x8#4 (BitVec.ofNat 8 b.toNat) = (b ++ 0#4) ++ 0x8#4 := by
    rw [BitVec.ofNat_toNat, BitVec.setWidth_eq, cmd16]
  exact (encode_eq_some_iff _ _).mpr ⟨(wf_iff_of_operand rfl).mpr b.isLt, hword.symm⟩

/-- Settles O41: the command is one step on CRC, a bijection of CRC as of the data. -/
theorem crcUpdateWritesCrcAlone : Obligations.CrcUpdateWritesCrcAlone :=
  ⟨fun b s => ⟨encode_crcUpdate b, _, exec_crcUpdate b s, rfl, crcStep_eq_zero_iff s.crc b⟩,
    crcStep_bijective_data, crcStep_bijective_crc, rfl⟩

/-- Settles O42: the command is its own effect, the value of CRC after reset. -/
theorem crcClearWritesCrcAlone : Obligations.CrcClearWritesCrcAlone :=
  ⟨rfl, fun _ => ⟨rfl, rfl, rfl⟩⟩

/-! ### The command sequence (R163) -/

/-- One CRC_UPDATE per byte folds the step over the bytes. -/
theorem foldl_afterExec_crcUpdate (m : List Byte) (s : State) :
    (m.map fun b => Instr.crcUpdate b.toNat).foldl (fun u i => afterExec i u) s =
      { s with crc := m.foldl crcStep s.crc } := by
  induction m generalizing s with
  | nil => rfl
  | cons b m ih =>
    rw [List.map_cons, List.foldl_cons, afterExec_of_next (exec_crcUpdate b s), ih, List.foldl_cons]

theorem hostCommands_cons_of_value {i : Instr} {s t : State} (is : List Instr)
    (h : hostCommand i s = .value () t) : hostCommands (i :: is) s = hostCommands is t := by
  rw [hostCommands, h, andThen_value]

/-- A running block takes the CRC_UPDATEs to the last. -/
theorem hostCommands_crcUpdate {s : State} (hs : isHalted s = false) (m : List Byte) :
    ∃ t, hostCommands (m.map fun b => .crcUpdate b.toNat) s = .value () t ∧
      CrcOnly s (m.foldl crcStep s.crc) t := by
  induction m generalizing s with
  | nil => exact ⟨s, rfl, _, rfl⟩
  | cons b m ih =>
    obtain ⟨t, hupdate, ht⟩ := hostCommand_crcUpdate hs b
    obtain ⟨u, hrest, hu⟩ := ih (ht.running hs)
    rw [ht.crc] at hu
    exact ⟨u, (hostCommands_cons_of_value _ hupdate).trans hrest, ht.trans hu⟩

theorem hostCommands_crc8Commands {s : State} (hs : isHalted s = false) (m : List Byte) :
    ∃ t, hostCommands (crc8Commands m) s = .value () t ∧ CrcOnly s (crc8 m) t := by
  obtain ⟨t, hclear, ht⟩ := hostCommand_crcClear hs
  obtain ⟨u, hrest, hu⟩ := hostCommands_crcUpdate (ht.running hs) m
  rw [ht.crc] at hu
  exact ⟨u, (hostCommands_cons_of_value _ hclear).trans hrest, ht.trans hu⟩

/-- Settles O43: CRC_CLEAR starts the fold at 0 and each CRC_UPDATE is a step of it, by the meanings and at the
port. -/
theorem crcCommandSequenceComputesCrc8 : Obligations.CrcCommandSequenceComputesCrc8 := by
  refine ⟨⟨rfl, fun m b => List.foldl_concat ..⟩, fun m s => ?meanings,
    fun m s => ⟨fun hs => ?running, fun hs => ?halted⟩⟩
  case meanings => exact foldl_afterExec_crcUpdate m { s with crc := 0x00#8 }
  case running =>
    obtain ⟨t, hrun, as, rfl⟩ := hostCommands_crc8Commands hs m
    exact ⟨_, hrun, rfl⟩
  case halted =>
    rw [crc8Commands, hostCommands, hostCommand_of_halted _ hs, andThen_raised]

/-! ### The other commands (R165) -/

/-- `s` with another CRC. -/
def withCrc (c : Byte) (s : State) : State := { s with crc := c }

theorem withDirection_withCrc (K : Nat) (d z : Bool) (c : Byte) (s : State) :
    withDirection K d z (withCrc c s) = withCrc c (withDirection K d z s) := by
  unfold withDirection
  split <;> rfl

theorem discStep_withCrc (K : Nat) (c : Byte) (s : State) :
    discStep K (withCrc c s) = mapFlow (withCrc c) (discStep K s) := by
  have hanswers : answersAt (withCrc c s) = answersAt s := rfl
  have hreads : afterReads K (withCrc c s) = withCrc c (afterReads K s) := rfl
  have hwrite : ∀ t, writeDirection K (withCrc c t) = withCrc c (writeDirection K t) := fun _ => rfl
  have hld : (withCrc c s).ld = s.ld := rfl
  have hrom : (withCrc c s).rom = s.rom := rfl
  have hromW : (withCrc c s).romW = s.romW := rfl
  rw [discStep_eq, discStep_eq, hanswers, hreads, hld, hrom, hromW]
  simp only [withDirection_withCrc, hwrite]
  split_ifs <;> rfl

theorem positions_withCrc (n : Nat) (c : Byte) (s : State) :
    positions n (withCrc c s) = mapFlow (withCrc c) (positions n s) := by
  induction n generalizing s with
  | zero => rfl
  | succ n ih =>
    rw [positions, positions, discStep_withCrc]
    cases discStep (64 - n) s with
    | raised t => rfl
    | value r t =>
      cases r with
      | abort => rfl
      | go => exact ih t

theorem concludePass_withCrc (c : Byte) (s : State) :
    concludePass (withCrc c s) = mapFlow (withCrc c) (concludePass s) := by
  cases hok : s.ok
  · rw [concludePass_aborted s hok, concludePass_aborted (withCrc c s) hok]
    rfl
  · by_cases hz : s.rom = 0#64
    · rw [concludePass_zero s hok hz, concludePass_zero (withCrc c s) hok hz]
      rfl
    · rw [concludePass_found s hok hz, concludePass_found (withCrc c s) hok hz]
      rfl

theorem concludePositions_withCrc (c : Byte) (x : Flow Resolution) :
    concludePositions (mapFlow (withCrc c) x) = mapFlow (withCrc c) (concludePositions x) := by
  cases x with
  | raised t => rfl
  | value r t => exact concludePass_withCrc c t

theorem searchCore_withCrc (cmd c : Byte) (s : State) :
    searchCore cmd (withCrc c s) = mapFlow (withCrc c) (searchCore cmd s) := by
  have hstart : passStart cmd (withCrc c s) = withCrc c (passStart cmd s) := rfl
  have hldf : (withCrc c s).ldf = s.ldf := rfl
  have hbus : (withCrc c s).bus = s.bus := rfl
  rw [searchCore_eq, searchCore_eq, hstart, positions_withCrc, concludePositions_withCrc, hldf, hbus]
  split_ifs <;> rfl

theorem afterSearch_withCrc (cmd c : Byte) (s : State) :
    afterSearch cmd (withCrc c s) = withCrc c (afterSearch cmd s) := by
  rw [afterSearch, afterSearch, searchCore_withCrc]
  cases searchCore cmd s <;> rfl

theorem compareSaved_withCrc (found : Bool) (c : Byte) (s : State) :
    compareSaved found (withCrc c s) = mapFlow (withCrc c) (compareSaved found s) := by
  have hmask : (withCrc c s).sRomW = s.sRomW := rfl
  unfold compareSaved
  rw [hmask]
  split_ifs <;> rfl

theorem endVerify_withCrc (c : Byte) (x : Flow PassOutcome) :
    endVerify (mapFlow (withCrc c) x) = withCrc c (endVerify x) := by
  cases x with
  | raised t => rfl
  | value o t =>
    rw [mapFlow, endVerify, endVerify, compareSaved_withCrc]
    cases compareSaved (isFound o) t <;> rfl

theorem afterVerify_withCrc (c : Byte) (s : State) :
    afterVerify (withCrc c s) = withCrc c (afterVerify s) := by
  have hstart : verifyStart (withCrc c s) = withCrc c (verifyStart s) := rfl
  rw [afterVerify, hstart, searchCore_withCrc, endVerify_withCrc, afterVerify]

/-- A command of the enumerator does the same whatever CRC holds, and leaves it there. -/
theorem effect_withCrc {i : Instr} (hclear : i.mnemonic ≠ .crcClear) (hupdate : i.mnemonic ≠ .crcUpdate)
    (c : Byte) (s : State) : effect i (withCrc c s) = withCrc c (effect i s) := by
  cases i with
  | crcClear => exact absurd rfl hclear
  | crcUpdate => exact absurd rfl hupdate
  | first => exact afterSearch_withCrc _ c (clearSession s)
  | next | search => exact afterSearch_withCrc _ c s
  | verify => exact afterVerify_withCrc c s
  | resetSearch | targetSetup | familySkipSetup => rfl

/-- Settles O45: the effect does not see which CRC it runs with, its own included, so it keeps that one. -/
theorem enumeratorIgnoresCrc : Obligations.EnumeratorIgnoresCrc := by
  intro i s c hi hclear hupdate
  have hcommutes := effect_withCrc hclear hupdate
  refine ⟨effect i s, (exec_next_iff _ _ _).mpr ⟨hi, rfl⟩, ?keeps, ?alike⟩
  case keeps =>
    have hcrc : (effect i (withCrc s.crc s)).crc = (withCrc s.crc (effect i s)).crc :=
      congrArg State.crc (hcommutes s.crc s)
    exact hcrc
  case alike => exact (exec_next_iff _ _ _).mpr ⟨hi, (hcommutes c s).symm⟩

end Sys2Proof.Machine
end

section
/-!
PROOF. How a pass that does not fault ends (spec/60_exceptions.md R171): the five outcomes with their events
and the session each leaves.
-/

namespace Sys2Proof.Machine

/-! ### The end of the 64 positions -/

/-- A position that returns goes on with OK as it was, or has read 1, 1 and set OK to 0 (R118). -/
theorem discStep_value_ok {K : Nat} {s t : State} {r : Resolution} (h : discStep K s = .value r t) :
    (r = .go ∧ t.ok = s.ok) ∨
      (r = .abort ∧ t.ok = false ∧ t.history = s.history ++ [.r true, .r true]) := by
  obtain ⟨hid, hcmp, g⟩ | ⟨-, g⟩ | ⟨-, -, -, g⟩ | ⟨-, -, -, -, g⟩ := discStep_cases K s <;> rw [g] at h <;>
    cases h
  · exact .inr ⟨rfl, rfl, by simp [hid, hcmp]⟩
  · exact .inl ⟨rfl, by simp⟩
  · exact .inl ⟨rfl, by simp⟩

/-- Positions that return have all gone on, or the last events are the two reads 1, 1 of the one that
aborted. -/
theorem positions_value_ok {n : Nat} {s t : State} {r : Resolution} (h : positions n s = .value r t) :
    (r = .go ∧ t.ok = s.ok) ∨
      (r = .abort ∧ t.ok = false ∧ ∃ before, t.history = s.history ++ (before ++ [.r true, .r true])) := by
  induction n generalizing s with
  | zero => cases h; exact .inl ⟨rfl, rfl⟩
  | succ n ih =>
    obtain ⟨first, hfirst, ⟨⟨u, hgo⟩, -⟩ | ⟨hstop, -⟩⟩ := discStep_events (64 - n) s
    · obtain ⟨-, hok⟩ | ⟨hr, -⟩ := discStep_value_ok hgo
      · rw [positions_succ_of_go hgo] at h
        rw [hgo, flowState] at hfirst
        refine (ih h).imp (fun ⟨hr, hu⟩ => ⟨hr, hu.trans hok⟩) fun ⟨hr, hu, before, hbefore⟩ => ?_
        exact ⟨hr, hu, first ++ before, by rw [hbefore, hfirst, List.append_assoc, List.append_assoc]⟩
      · cases hr
    · rw [positions_succ_of_stop hstop] at h
      obtain ⟨rfl, -⟩ | ⟨hr, hok, hhist⟩ := discStep_value_ok h
      · exact absurd h (hstop t)
      · exact .inr ⟨hr, hok, [], hhist⟩

theorem positions_passStart_ldf {cmd : Byte} {s t : State} {r : Resolution}
    (h : positions 64 (passStart cmd s) = .value r t) : t.ldf = s.ldf := by
  have hkeep := positions_positionKeeps 64 (passStart cmd s)
  rw [h] at hkeep
  exact hkeep.ldf.trans (busWriteByte_positionKeeps cmd (afterPresence s)).ldf

/-- The events of a pass's positions, with those before them: 201 when all go on, fewer and ending in 1, 1
when one aborts (R125). -/
theorem positions_passStart_cases {cmd : Byte} {s t : State} {r : Resolution}
    (h : positions 64 (passStart cmd s) = .value r t) : ∃ events, t.history = s.history ++ events ∧
      (t.ok = true ∧ events.length = 201 ∨
        t.ok = false ∧ events.length < 201 ∧ ∃ before, events = before ++ [.r true, .r true]) := by
  obtain ⟨events, he, hcount⟩ := positions_events 64 (passStart cmd s)
  rw [h, flowState] at he
  refine ⟨.rst (onReset s.bus).1 :: commandEvents cmd ++ events, ?_, ?_⟩
  · rw [he, passStart_history, List.append_assoc]
  · rw [List.length_append, List.length_cons, commandEvents_length]
    obtain ⟨rfl, hok⟩ | ⟨rfl, hok, before, hbefore⟩ := positions_value_ok h
    · obtain ⟨-, hlen⟩ | ⟨hstop, -⟩ := hcount
      · exact .inl ⟨hok, by omega⟩
      · exact absurd h (hstop t)
    · obtain ⟨⟨u, hgo⟩, -⟩ | ⟨-, j, hj, hlen⟩ := hcount
      · cases hgo.symm.trans h
      · obtain rfl : events = before ++ [.r true, .r true] := List.append_cancel_left (he.symm.trans hbefore)
        exact .inr ⟨hok, by omega, _, (List.append_assoc _ before _).symm⟩

/-! ### The five outcomes (R171) -/

/-- A pass that returns ends in its outcome's way. -/
theorem searchCore_passEnd {cmd : Byte} {s t : State} {o : PassOutcome} (h : searchCore cmd s = .value o t) :
    ∃ events, t.history = s.history ++ events ∧ PassEnd s t events o := by
  rw [searchCore_eq] at h
  split_ifs at h with hldf hp
  · cases h
    exact ⟨[], (List.append_nil _).symm, hldf, rfl, rfl, rfl, rfl, rfl, rfl⟩
  · cases hpos : positions 64 (passStart cmd s) with
    | raised u => rw [hpos] at h; cases h
    | value r u =>
      rw [hpos, concludePositions] at h
      obtain ⟨events, hhist, ⟨hok, hlen⟩ | ⟨hok, hlen, hbefore⟩⟩ := positions_passStart_cases hpos
      · have hw := positions_all_written hpos hok
        by_cases hz : u.rom = 0#64
        · rw [concludePass_zero u hok hz] at h
          cases h
          exact ⟨events, hhist, hlen, hw, hz, rfl, rfl, rfl⟩
        · rw [concludePass_found u hok hz] at h
          cases h
          have hcomplete : (completePass u).ldf = true ↔ u.lz = 0#7 := by
            rw [completePass_ldf, positions_passStart_ldf hpos]
            simp [hldf]
          exact ⟨events, hhist, hlen, hw, hz, rfl, hcomplete⟩
      · rw [concludePass_aborted u hok] at h
        cases h
        exact ⟨events, hhist, hbefore, hlen, rfl, rfl, rfl⟩
  · cases h
    have hsilent : (onReset s.bus).1 = false := Bool.eq_false_of_not_eq_true hp
    exact ⟨[.rst false], by rw [← hsilent]; rfl, rfl, rfl, rfl, rfl, rfl, rfl⟩

theorem KeepsSession.trans {s t u : State} (h : KeepsSession s t) (g : KeepsSession t u) : KeepsSession s u :=
  ⟨g.rom.trans h.rom, g.romW.trans h.romW, g.ld.trans h.ld, g.lfd.trans h.lfd, g.ldf.trans h.ldf⟩

theorem KeepsSession.symm {s t : State} (h : KeepsSession s t) : KeepsSession t s :=
  ⟨h.rom.symm, h.romW.symm, h.ld.symm, h.lfd.symm, h.ldf.symm⟩

/-- Of the states a pass starts from and ends in, an outcome speaks of the session and of LZ at the end. -/
theorem PassEnd.congr {s s' t t' : State} {events : List BusEvent} {o : PassOutcome}
    (h : PassEnd s t events o) (hs : KeepsSession s s') (ht : KeepsSession t t') (hlz : t'.lz = t.lz) :
    PassEnd s' t' events o := by
  have cleared : SessionCleared t → SessionCleared t' := fun hc =>
    ⟨ht.ld.trans hc.ld, ht.lfd.trans hc.lfd, ht.ldf.trans hc.ldf⟩
  cases o with
  | found =>
    obtain ⟨hlen, hw, hz, hld, hldf⟩ := h
    exact ⟨hlen, ht.romW.trans hw, ht.rom ▸ hz, by rw [ht.ld, hlz, hld], by rw [ht.ldf, hlz, hldf]⟩
  | exhausted =>
    obtain ⟨hldf, hev, hkeep⟩ := h
    exact ⟨hs.ldf.trans hldf, hev, (hs.symm.trans hkeep).trans ht⟩
  | noPresence =>
    obtain ⟨hev, hrom, hromW, hclear⟩ := h
    exact ⟨hev, by rw [ht.rom, hs.rom, hrom], by rw [ht.romW, hs.romW, hromW], cleared hclear⟩
  | aborted =>
    obtain ⟨hev, hlen, hclear⟩ := h
    exact ⟨hev, hlen, cleared hclear⟩
  | zeroAddress =>
    obtain ⟨hlen, hw, hz, hclear⟩ := h
    exact ⟨hlen, ht.romW.trans hw, ht.rom.trans hz, cleared hclear⟩

/-- A search command that leaves the block running reports what its pass returned. -/
theorem afterSearch_of_running {cmd : Byte} {s : State} (h : isHalted (afterSearch cmd s) = false) :
    ∃ o u, searchCore cmd s = .value o u ∧
      afterSearch cmd s = { u with result := searchResult (isFound o), ph := .idle } := by
  obtain ⟨u, -, hu, hf, -⟩ | hvalue := afterSearch_cases cmd s
  · rw [isHalted_eq_false, hu, hf] at h
    cases h
  · exact hvalue

/-- Settles O26: a pass that returns ends by `searchCore_passEnd`, and neither the report of a search command
nor VERIFY's restore touches what the outcome speaks of. -/
theorem passEndsInOneOfFiveOutcomes : Obligations.PassEndsInOneOfFiveOutcomes := by
  refine ⟨fun i s s0 t cmd hstart _ hx ht => ?search, fun s t _ hx ht => ?verify⟩
  case search =>
    obtain rfl : afterSearch cmd s0 = t := Host.Outcome.next.inj (hstart.exec_eq.symm.trans hx)
    obtain ⟨o, u, hc, hdone⟩ := afterSearch_of_running ((isHalted_eq_false _).mpr ht)
    obtain ⟨events, hhist, hend⟩ := searchCore_passEnd hc
    rw [hstart.start_eq] at hhist
    rw [hdone]
    exact ⟨o, events, hhist, (searchCore_outcome hc).1, rfl,
      hend.congr ⟨rfl, rfl, rfl, rfl, rfl⟩ ⟨rfl, rfl, rfl, rfl, rfl⟩ rfl⟩
  case verify =>
    obtain rfl : afterVerify s = t := Host.Outcome.next.inj hx
    obtain ⟨o, u, hc, hdone⟩ := afterVerify_of_running ((isHalted_eq_false _).mpr ht)
    obtain ⟨events, hhist, hend⟩ := searchCore_passEnd hc
    obtain ⟨hsession, -, -⟩ := verifyDone_frame hc
    obtain ⟨houtcome, hne⟩ := searchCore_outcome hc
    rw [hdone]
    exact ⟨o, u, events, hc, hhist, houtcome, hne rfl, rfl,
      hend.congr ⟨rfl, rfl, rfl, rfl, rfl⟩ ⟨rfl, rfl, rfl, rfl, rfl⟩ rfl, hsession⟩

end Sys2Proof.Machine
end

section
/-!
PROOF. Which commands fault, and on what (spec/60_exceptions.md R172, R173): a replay or the VERIFY compare
that reads an unwritten bit.
-/

namespace Sys2Proof.Machine

/-! ### The unwritten bit behind a fault -/

/-- Positions raise only where a position below LD was unwritten when they started (R119). -/
theorem positions_raised_unwritten {n : Nat} (hn : n ≤ 64) {s t : State} (h : positions n s = .raised t) :
    ∃ K, 1 ≤ K ∧ K ≤ 64 ∧ K < s.ld.toNat ∧ romBit s.romW K = false := by
  induction n generalizing s with
  | zero => cases h
  | succ n ih =>
    by_cases hgo : ∃ u, discStep (64 - n) s = .value .go u
    · obtain ⟨u, hu⟩ := hgo
      rw [positions_succ_of_go hu] at h
      obtain ⟨K, h1, h64, hk, hun⟩ := ih (by omega) h
      have hkeep := discStep_positionKeeps (64 - n) s
      have hbounds := discStep_keepsBounds (64 - n) (by omega) (by omega) s
      rw [hu, flowState] at hkeep hbounds
      refine ⟨K, h1, h64, hkeep.ld ▸ hk, Bool.eq_false_of_not_eq_true fun hwritten => ?_⟩
      exact absurd (hun.symm.trans (hbounds.grows K h1 h64 hwritten)) Bool.false_ne_true
    · rw [positions_succ_of_stop fun u hu => hgo ⟨u, hu⟩] at h
      obtain ⟨-, hk, hun⟩ := discStep_raised _ s t h
      exact ⟨64 - n, by omega, by omega, hk, hun⟩

/-- A pass raises only where a position below LD was unwritten when it started. -/
theorem searchCore_raised_unwritten {cmd : Byte} {s t : State} (h : searchCore cmd s = .raised t) :
    ∃ K, 1 ≤ K ∧ K ≤ 64 ∧ K < s.ld.toNat ∧ romBit s.romW K = false := by
  rw [searchCore_eq] at h
  split_ifs at h
  · cases h
  · cases hpos : positions 64 (passStart cmd s) with
    | raised u =>
      obtain ⟨bus, history, hstart⟩ := writeBitsFrom_keeps cmd 8 0 (afterPresence s)
      have hunwritten := positions_raised_unwritten le_rfl hpos
      rw [passStart, busWriteByte, hstart] at hunwritten
      exact hunwritten
    | value r u =>
      obtain ⟨o, v, hv, -⟩ := concludePass_value u
      rw [hpos, concludePositions, hv] at h
      cases h
  · cases h

/-! ### The commands -/

/-- A search command that halts a running block has met an unwritten bit below LD. -/
theorem afterSearch_of_halted {cmd : Byte} {s : State} (hs : isHalted s = false)
    (h : isHalted (afterSearch cmd s) = true) :
    (afterSearch cmd s).fault = .unwrittenRead ∧ (afterSearch cmd s).result = s.result ∧
      ∃ K, 1 ≤ K ∧ K ≤ 64 ∧ K < s.ld.toNat ∧ romBit s.romW K = false := by
  obtain ⟨u, hc, hu, hf, hres, -⟩ | ⟨o, u, hc, hu⟩ := afterSearch_cases cmd s
  · rw [hu]
    exact ⟨hf, hres, searchCore_raised_unwritten hc⟩
  · have hrunning : isHalted (afterSearch cmd s) = false := by
      rw [hu, isHalted_eq_false]
      exact (searchCore_noRaise cmd s u o hc).fault.trans ((isHalted_eq_false s).mp hs)
    exact absurd (hrunning.symm.trans h) Bool.false_ne_true

/-- With every bit of ROM written neither a replay nor the compare of VERIFY faults (43_verify.md R150). -/
theorem afterVerify_running_of_allWritten {s : State} (hs : isHalted s = false) (hw : s.romW = allWritten) :
    isHalted (afterVerify s) = false := by
  obtain ⟨o, u, hc⟩ := searchCore_returns Config.searchCommand (verifyStart_writtenBelow hw)
  obtain ⟨-, -, hfault⟩ := verifyDone_frame hc
  rw [afterVerify_of_value hc fun _ => hw, isHalted_eq_false, hfault]
  exact (isHalted_eq_false s).mp hs

/-- A VERIFY that halts a running block has met an unwritten bit. -/
theorem afterVerify_of_halted {s : State} (hs : isHalted s = false) (h : isHalted (afterVerify s) = true) :
    (afterVerify s).fault = .unwrittenRead ∧ (afterVerify s).result = s.result ∧ s.romW ≠ allWritten := by
  have hw : s.romW ≠ allWritten := fun hw =>
    absurd ((afterVerify_running_of_allWritten hs hw).symm.trans h) Bool.false_ne_true
  obtain ⟨u, -, hu, hf, hres, -⟩ | ⟨o, u, same, hc, -, hu⟩ := afterVerify_cases s
  · rw [hu]
    exact ⟨hf, hres, hw⟩
  · have hrunning : (afterVerify s).fault = .none := by
      rw [hu]
      exact (searchCore_noRaise _ _ u o hc).fault.trans ((isHalted_eq_false s).mp hs)
    exact absurd hrunning ((isHalted_eq_true _).mp h)

/-- A command that halts a running block is NEXT, SEARCH or VERIFY, and has met an unwritten bit. -/
theorem effect_of_halted (i : Instr) {s : State} (hs : isHalted s = false)
    (h : isHalted (effect i s) = true) :
    (effect i s).fault = .unwrittenRead ∧ (effect i s).result = s.result ∧ s.romW ≠ allWritten ∧
      (i.mnemonic = .next ∨ i.mnemonic = .search ∨ i.mnemonic = .verify) := by
  have unwritten : (∃ K, 1 ≤ K ∧ K ≤ 64 ∧ K < s.ld.toNat ∧ romBit s.romW K = false) →
      s.romW ≠ allWritten := by
    rintro ⟨K, h1, h64, -, hun⟩ hw
    rw [hw, romBit_allWritten K h1 h64] at hun
    cases hun
  cases i with
  | next | search =>
    obtain ⟨hf, hres, hun⟩ := afterSearch_of_halted hs h
    exact ⟨hf, hres, unwritten hun, by simp [Instr.mnemonic]⟩
  | verify =>
    obtain ⟨hf, hres, hw⟩ := afterVerify_of_halted hs h
    exact ⟨hf, hres, hw, .inr (.inr rfl)⟩
  | first =>
    obtain ⟨-, -, K, -, -, hk, -⟩ := afterSearch_of_halted (s := clearSession s) hs h
    exact absurd hk (Nat.not_lt_zero K)
  | resetSearch | targetSetup | familySkipSetup | crcClear | crcUpdate =>
    exact absurd (hs.symm.trans h) Bool.false_ne_true

/-- Settles O55: a command that halts has met an unwritten bit (`effect_of_halted`), so with every bit written
none does. -/
theorem commandsFaultOnlyOnUnwrittenBits : Obligations.CommandsFaultOnlyOnUnwrittenBits := by
  intro i s t hs hx
  obtain ⟨-, rfl⟩ := (exec_next_iff i s t).mp hx
  refine ⟨fun h => ?_, fun hw => Bool.eq_false_of_not_eq_true fun h => ?_⟩
  · obtain ⟨hf, hres, -, hi⟩ := effect_of_halted i hs h
    exact ⟨hf, hres, hi⟩
  · obtain ⟨-, -, hun, -⟩ := effect_of_halted i hs h
    exact hun hw

end Sys2Proof.Machine
end

section
/-!
PROOF. The halt (spec/60_exceptions.md R173, R174), and the blocks of a system, which do not see each other
(R180, 20_memory.md R61).
-/

namespace Sys2Proof.Machine

theorem accept_command_of_halted {s : State} (w : Word) (h : isHalted s = true) :
    accept (.command w) s = .next s := by
  rw [accept, if_pos h]

theorem await_of_halted {s : State} (h : isHalted s = true) : await s = .fault (.halted s.fault) := by
  rw [await, if_pos h]

theorem step_of_inputs_nil {s : State} (h : s.inputs = []) : step s = await s := by
  rw [step, h]

/-- Settles O46, item by item: the halt passes commands and reads by, and a hardware reset clears FAULT. -/
theorem haltedBlockTakesNoStepUntilReset : Obligations.HaltedBlockTakesNoStepUntilReset := by
  intro s rest hs
  refine ⟨fun w hin => ?command, fun off hin => ?read, fun b hin => ?busChange, fun hin => ?nothing,
    fun hin => ?reset⟩
  case command => exact (step_of_inputs_cons hin).trans (accept_command_of_halted w hs)
  case read => exact (step_of_inputs_cons hin).trans (accept_read_of_halted off hs)
  case busChange => exact step_of_inputs_cons hin
  case nothing => exact (step_of_inputs_nil hin).trans (await_of_halted hs)
  case reset => exact ⟨hardwareReset { s with inputs := rest }, step_of_inputs_cons hin, rfl⟩

/-- A step of a system that goes on puts the next state of one block in that block's place. -/
theorem systemStep_next {y z : System} {n : Fin y.blocks.length} (h : systemStep y n = .next z) :
    ∃ t, step y.blocks[n] = .next t ∧ z = ⟨y.blocks.set n t⟩ := by
  unfold systemStep at h
  cases hstep : step y.blocks[n] <;> rw [hstep] at h <;> cases h
  exact ⟨_, rfl, rfl⟩

/-- Settles O58: the step replaces the state at one place of the list and no other. -/
theorem instancesAreIndependent : Obligations.InstancesAreIndependent := by
  intro y z n h
  obtain ⟨t, hstep, rfl⟩ := systemStep_next h
  exact ⟨List.length_set, ⟨t, hstep, List.getElem?_set_self n.isLt⟩,
    fun m hm => List.getElem?_set_ne (Ne.symm hm)⟩

end Sys2Proof.Machine
end

section
/-!
PROOF. FIRST after the family commands (spec/70_reset_and_hazards.md R197): it clears what they positioned, and
a pass with LD = 0 replays nothing, so ROM as TARGET_SETUP left it does not show.
-/

namespace Sys2Proof.Machine

/-- `s` with another ROM and written-mask. -/
def withRom (r w : Rom) (s : State) : State := { s with rom := r, romW := w }

/-- In a pass with LD = 0, two states that come to position `K` and differ in ROM and ROM_W alone; while OK holds,
only from `K` on. -/
inductive RomDiffersFrom (K : Nat) (s : State) : State → Prop
  | intro (r w : Rom) (hld : s.ld = 0#7) (hrom : s.ok = true → agreesBelow s.rom K r = true)
      (hromW : s.ok = true → agreesBelow s.romW K w = true) : RomDiffersFrom K s (withRom r w s)

/-- After the 64 positions of a pass that was not aborted nothing differs. -/
theorem RomDiffersFrom.eq_of_ok {s s' : State} (h : RomDiffersFrom 65 s s') (hok : s.ok = true) : s' = s := by
  obtain ⟨r, w, -, hrom, hromW⟩ := h
  rw [eq_of_agreesBelow (hrom hok), eq_of_agreesBelow (hromW hok)]
  rfl

/-- An aborted pass writes no further position, so it makes no difference where the two states differ. -/
theorem RomDiffersFrom.of_aborted {K L : Nat} {s s' : State} (h : RomDiffersFrom K s s') (hok : s.ok = false) :
    RomDiffersFrom L s s' := by
  obtain ⟨r, w, hld, -, -⟩ := h
  have hnot : s.ok ≠ true := ne_true_of_eq_false hok
  exact .intro r w hld (fun h => absurd h hnot) fun h => absurd h hnot

/-! ### One position -/

/-- Codes that agree below `K` agree at `K` too after the same bit is put there. -/
theorem agreesBelow_setRomBit_both {a d : Rom} {K : Nat} (v : Bool) (h1 : 1 ≤ K) (h64 : K ≤ 64)
    (h : agreesBelow a K d = true) : agreesBelow (setRomBit a K v) (K + 1) (setRomBit d K v) = true := by
  have hbelow : agreesBelow a K (setRomBit d K v) = true := by
    refine agreesBelow_comm ?_
    rw [agreesBelow_setRomBit_of_le d a v h1 le_rfl]
    exact agreesBelow_comm h
  rw [agreesBelow_setRomBit a _ v h1 h64, romBit_setRomBit_self d K v h1 h64, hbelow, beq_self_eq_true]
  rfl

theorem withDirection_withRom (K : Nat) (d z : Bool) (r w : Rom) (s : State) :
    withDirection K d z (withRom r w s) = withRom r w (withDirection K d z s) := by
  unfold withDirection
  split <;> rfl

/-- The direction a position takes is written into both states. -/
theorem directed_romDiffersFrom {K : Nat} (h1 : 1 ≤ K) (h64 : K ≤ 64) (d z : Bool) {s s' : State}
    (h : RomDiffersFrom K s s') :
    RomDiffersFrom (K + 1) (writeDirection K (withDirection K d z (afterReads K s)))
      (writeDirection K (withDirection K d z (afterReads K s'))) := by
  obtain ⟨r, w, hld, hrom, hromW⟩ := h
  have hreads : afterReads K (withRom r w s) = withRom r w (afterReads K s) := rfl
  have hwrite : ∀ t, writeDirection K (withRom r w t) =
      withRom (setRomBit r K t.dir) (setRomBit w K true) (writeDirection K t) := fun _ => rfl
  rw [hreads, withDirection_withRom, hwrite, withDirection_dir]
  refine .intro _ _ ?_ (fun hok => ?_) fun hok => ?_
  · exact (withDirection_positionKeeps K d z (afterReads K s)).ld.trans hld
  · rw [writeDirection_ok, withDirection_ok, afterReads_ok] at hok
    rw [writeDirection_rom, withDirection_dir, withDirection_rom, afterReads_rom]
    exact agreesBelow_setRomBit_both d h1 h64 (hrom hok)
  · rw [writeDirection_ok, withDirection_ok, afterReads_ok] at hok
    rw [writeDirection_romW, withDirection_romW, afterReads_romW]
    exact agreesBelow_setRomBit_both true h1 h64 (hromW hok)

/-- No position lies below LD = 0, so none reads ROM or ROM_W (R119). -/
theorem discStep_romDiffersFrom {K : Nat} (h1 : 1 ≤ K) (h64 : K ≤ 64) {s s' : State}
    (h : RomDiffersFrom K s s') :
    FlowAlike (RomDiffersFrom (K + 1)) (discStep K s) (discStep K s') := by
  have hdirected := fun d z => directed_romDiffersFrom h1 h64 d z h
  obtain ⟨r, w, hld, -, -⟩ := h
  have hanswers : answersAt (withRom r w s) = answersAt s := rfl
  have hld' : (withRom r w s).ld = s.ld := rfl
  have hnoReplay : ¬K < s.ld.toNat := by simp [hld]
  rw [discStep_eq, discStep_eq, hanswers, hld']
  simp only [hnoReplay, false_and, if_false]
  split_ifs
  · exact .value _ (.intro r w hld (fun hok => nomatch hok) fun hok => nomatch hok)
  · exact .value _ (hdirected _ _)
  · exact .value _ (hdirected _ _)

/-! ### The pass -/

theorem positions_romDiffersFrom (n : Nat) (hn : n ≤ 64) {s s' : State} (h : RomDiffersFrom (65 - n) s s') :
    FlowAlike (RomDiffersFrom 65) (positions n s) (positions n s') := by
  induction n generalizing s s' with
  | zero => exact .value _ h
  | succ n ih =>
    have hK : 65 - (n + 1) = 64 - n := by omega
    have hnext : 64 - n + 1 = 65 - n := by omega
    have hd := discStep_romDiffersFrom (K := 64 - n) (by omega) (by omega) (hK ▸ h)
    have hok := @discStep_value_ok (64 - n) s
    rw [hnext] at hd
    unfold positions
    generalize discStep (64 - n) s = x, discStep (64 - n) s' = x' at hd hok
    cases hd with
    | raised hr => exact .raised hr
    | value r hv =>
      cases r with
      | abort =>
        obtain ⟨hgo, -⟩ | ⟨-, haborted, -⟩ := hok rfl
        · cases hgo
        · exact .value _ (hv.of_aborted haborted)
      | go => exact ih (by omega) hv

/-- Two passes have left states that differ in ROM and ROM_W alone, and in nothing when a device was found. -/
def SameButStaleRom (t t' : State) : Prop :=
  ∃ r w, t' = withRom r w t ∧ (t.outcome = some .found → t' = t)

theorem concludePass_sameButStaleRom {s s' : State} (h : RomDiffersFrom 65 s s') :
    FlowAlike SameButStaleRom (concludePass s) (concludePass s') := by
  cases hok : s.ok
  · obtain ⟨r, w, -, -, -⟩ := h
    rw [concludePass_aborted s hok, concludePass_aborted (withRom r w s) hok]
    exact .value _ ⟨r, w, rfl, fun hfound => nomatch hfound⟩
  · obtain ⟨o, t, ht, -⟩ := concludePass_value s
    rw [h.eq_of_ok hok, ht]
    exact .value o ⟨t.rom, t.romW, rfl, fun _ => rfl⟩

/-- A pass with LD = 0 does the same whatever ROM and ROM_W hold, and overwrites them when it finds a device. -/
theorem searchCore_withRom (cmd : Byte) (r w : Rom) {s : State} (hld : s.ld = 0#7) :
    FlowAlike SameButStaleRom (searchCore cmd s) (searchCore cmd (withRom r w s)) := by
  have hldf : (withRom r w s).ldf = s.ldf := rfl
  have hbus : (withRom r w s).bus = s.bus := rfl
  rw [searchCore_eq, searchCore_eq, hldf, hbus]
  split_ifs
  · exact .value _ ⟨r, w, rfl, fun hfound => nomatch hfound⟩
  · have hstart : RomDiffersFrom 1 (passStart cmd s) (passStart cmd (withRom r w s)) :=
      .intro r w ((busWriteByte_positionKeeps cmd (afterPresence s)).ld.trans hld)
        (fun _ => agreesBelow_one _ _) fun _ => agreesBelow_one _ _
    have hp := positions_romDiffersFrom 64 le_rfl hstart
    generalize positions 64 (passStart cmd s) = x, positions 64 (passStart cmd (withRom r w s)) = x' at hp
    cases hp with
    | raised hr => exact .raised hr
    | value _ hv => exact concludePass_sameButStaleRom hv
  · exact .value _ ⟨r, w, rfl, fun hfound => nomatch hfound⟩

/-! ### The obligation -/

/-- Settles O34: clearing the session undoes FAMILY_SKIP_SETUP, and all but the ROM of TARGET_SETUP, which the
pass does not read (`searchCore_withRom`). -/
theorem firstDiscardsPositioning : Obligations.FirstDiscardsPositioning := by
  intro s fc
  refine ⟨rfl, ?_⟩
  have hcleared : clearSession (targetSetup fc s) = withRom (fc.setWidth 64) allWritten (clearSession s) := rfl
  have hsame := searchCore_withRom Config.searchCommand (fc.setWidth 64) allWritten (s := clearSession s) rfl
  obtain ⟨o, t, hc⟩ := searchCore_returns Config.searchCommand (s := clearSession s) (writtenBelow_zero _)
  rw [hc] at hsame
  generalize hc' : searchCore _ (withRom _ _ _) = x' at hsame
  cases hsame with
  | value _ hv =>
    obtain ⟨r, w, rfl, hfound⟩ := hv
    refine ⟨endSearch (.value o t), endSearch (.value o (withRom r w t)), ?_, ?_, rfl, rfl, rfl, rfl, rfl, rfl,
      rfl, fun ho => ?_⟩
    · rw [exec, execFirst, hc]
    · rw [afterExec_of_next (exec_targetSetup fc s), exec, execFirst, hcleared, hc']
    · have hnothing : withRom r w t = t := hfound ho
      rw [hnothing]
      exact ⟨rfl, rfl⟩

end Sys2Proof.Machine
end

section
/-!
PROOF. Hardware reset and the reset session (spec/70_reset_and_hazards.md R190, R191, R193).
-/

namespace Sys2Proof.Machine

/-- A session already at its initial values stays as it is (R110). -/
theorem SessionCleared.clearSession_eq {s : State} (h : SessionCleared s) : clearSession s = s := by
  obtain ⟨hld, hlfd, hldf⟩ := h
  rw [clearSession, ← hld, ← hlfd, ← hldf]

/-- FIRST clears the session and does what NEXT does (R111, R112). -/
theorem exec_next_eq_exec_first {s : State} (h : SessionCleared s) : exec .next s = exec .first s := by
  rw [exec, exec, execFirst, h.clearSession_eq, execNext]

/-- Settles O17: hardware reset and RESET_SEARCH leave a cleared session, which FIRST's clearing does not
change. -/
theorem nextIsFirstOnResetSession : Obligations.NextIsFirstOnResetSession :=
  ⟨fun _ hld hlfd hldf => exec_next_eq_exec_first ⟨hld, hlfd, hldf⟩, fun _ =>
    ⟨exec_next_eq_exec_first ⟨rfl, rfl, rfl⟩, exec_next_eq_exec_first ⟨rfl, rfl, rfl⟩⟩⟩

/-- Settles O47: the step handles the reset, which leaves the bus, the rest of the list and the answers. -/
theorem hardwareResetFromAnyState : Obligations.HardwareResetFromAnyState := by
  intro s rest hin
  exact ⟨hardwareReset { s with inputs := rest }, step_of_inputs_cons hin, rfl, rfl, rfl, rfl, rfl, rfl, rfl, rfl,
    rfl, rfl, rfl, rfl⟩

theorem await_of_running {s : State} (h : isHalted s = false) : await s = .next s := by
  rw [await, h]
  rfl

/-- Settles O49: with an empty list the step is a wait, and only a halted block cannot wait. -/
theorem idleBlockWaits : Obligations.IdleBlockWaits := fun _ hin hs =>
  (step_of_inputs_nil hin).trans (await_of_running hs)

end Sys2Proof.Machine
end
